-- ==== Sys2Proof/Word.lean ====
section
/-! DEFINITION. The word, byte and register-number types of the core (00_scope.md R9, R11). -/

namespace Sys2Proof

/-- A 32-bit value: register contents, addresses, instruction words (R9: XLEN = 32). -/
abbrev Word := BitVec 32

/-- One byte of memory. -/
abbrev Byte := BitVec 8

/-- A general register number, the 5-bit field of an encoding (R30, R121). -/
abbrev Reg := BitVec 5

end Sys2Proof
end

