-- ==== Sys2Proof/Config.lean ====
section
/-! DEFINITION. The implementation parameters of 00_scope.md R10 and their legal ranges.
The open ones (MEM_WORDS, PREDICTOR, PRED_BITS, and RESET_PC by I17) are plain data that State carries
unchanged, so a statement about every state holds for every choice of them. -/

namespace Sys2Proof

/-- The three branch-predictor policies (46_branch_predictor.md R370, R371): a tagged variant. -/
inductive Policy where
  | alwaysTaken
  | neverTaken
  | adaptive
  deriving DecidableEq, Repr

/-- The parameters a run fixes (R10). `predBits` is the document's N, an index width (90_conflicts.md C2). -/
structure Config where
  memWords  : Nat
  resetPc   : Word
  predictor : Policy
  predBits  : Nat
  deriving DecidableEq, Repr

/-- The ranges R10 and R490 give: 1 ≤ MEM_WORDS ≤ 2^30, RESET_PC a multiple of 4 below 4·MEM_WORDS,
0 ≤ PRED_BITS ≤ 32. -/
def Config.wf (c : Config) : Bool :=
  decide (1 ≤ c.memWords) && decide (c.memWords ≤ 2 ^ 30)
    && decide (c.resetPc.toNat % 4 = 0) && decide (c.resetPc.toNat < 4 * c.memWords)
    && decide (c.predBits ≤ 32)

/-- The parameters `State.reset` carries. RESET_PC = 0 is the spec's (D18).
DESIGN CHOICE (log 2): MEM_WORDS = 1024 and NEVER_TAKEN, the convention of 95_test_vectors.md, and
PRED_BITS = 4. -/
def Config.standard : Config :=
  { memWords := 1024, resetPc := 0#32, predictor := .neverTaken, predBits := 4 }

/-- The free value of `LoadExtend` on a memory kind that is no load, of which R252 says nothing (log 6). No
control row reaches it. -/
opaque Config.noLoadValue : Word → Nat → Word

/-- `HALT_WORDS` (R10, D3): ECALL and EBREAK. -/
def haltWords : List Word := [0x00000073#32, 0x00100073#32]

/-- `PRED_RESET` (R10, D19): every adaptive entry starts strongly not-taken. -/
def predReset : BitVec 2 := 0#2

end Sys2Proof
end

