-- ==== Sys2Proof/Syntax.lean ====
section
/-! DEFINITION. The instructions of spec/opcode_table.json, one constructor per row.
Registers are 5-bit numbers. `imm : BitVec 12` is the field `w[31:20]` (loads, OP-IMM, JALR) or
`{w[31:25], w[11:7]}` (stores); `shamt` is `w[24:20]`; `off` of a branch is its 13-bit byte offset
and of JAL its 21-bit byte offset, both even (30_encoding.md R128–R133). -/

namespace Sys2Proof

inductive Instr where
  -- OP (R135)
  | add   (rd rs1 rs2 : Reg)
  | sub   (rd rs1 rs2 : Reg)
  | sll   (rd rs1 rs2 : Reg)
  | slt   (rd rs1 rs2 : Reg)
  | sltu  (rd rs1 rs2 : Reg)
  | xor   (rd rs1 rs2 : Reg)
  | srl   (rd rs1 rs2 : Reg)
  | sra   (rd rs1 rs2 : Reg)
  | or    (rd rs1 rs2 : Reg)
  | and   (rd rs1 rs2 : Reg)
  -- OP-IMM (R136)
  | addi  (rd rs1 : Reg) (imm : BitVec 12)
  | slti  (rd rs1 : Reg) (imm : BitVec 12)
  | sltiu (rd rs1 : Reg) (imm : BitVec 12)
  | xori  (rd rs1 : Reg) (imm : BitVec 12)
  | ori   (rd rs1 : Reg) (imm : BitVec 12)
  | andi  (rd rs1 : Reg) (imm : BitVec 12)
  | slli  (rd rs1 : Reg) (shamt : BitVec 5)
  | srli  (rd rs1 : Reg) (shamt : BitVec 5)
  | srai  (rd rs1 : Reg) (shamt : BitVec 5)
  -- LUI, AUIPC (R134, R140)
  | lui   (rd : Reg) (imm : BitVec 20)
  | auipc (rd : Reg) (imm : BitVec 20)
  -- LOAD (R137)
  | lb    (rd rs1 : Reg) (imm : BitVec 12)
  | lh    (rd rs1 : Reg) (imm : BitVec 12)
  | lw    (rd rs1 : Reg) (imm : BitVec 12)
  | lbu   (rd rs1 : Reg) (imm : BitVec 12)
  | lhu   (rd rs1 : Reg) (imm : BitVec 12)
  -- STORE (R138)
  | sb    (rs1 rs2 : Reg) (imm : BitVec 12)
  | sh    (rs1 rs2 : Reg) (imm : BitVec 12)
  | sw    (rs1 rs2 : Reg) (imm : BitVec 12)
  -- BRANCH (R139)
  | beq   (rs1 rs2 : Reg) (off : BitVec 13)
  | bne   (rs1 rs2 : Reg) (off : BitVec 13)
  | blt   (rs1 rs2 : Reg) (off : BitVec 13)
  | bge   (rs1 rs2 : Reg) (off : BitVec 13)
  | bltu  (rs1 rs2 : Reg) (off : BitVec 13)
  | bgeu  (rs1 rs2 : Reg) (off : BitVec 13)
  -- JAL, JALR (R134, R140)
  | jal   (rd : Reg) (off : BitVec 21)
  | jalr  (rd rs1 : Reg) (imm : BitVec 12)
  -- SYSTEM (R141)
  | ecall
  | ebreak
  deriving DecidableEq, Repr

end Sys2Proof
end

