-- ==== Sys2Proof/WellFormed.lean ====
section
/-! DEFINITION. Which instruction terms an encoding exists for: the branch and JAL offsets are always even
(30_encoding.md R130, R132). Every other operand's range is its field's type. -/

namespace Sys2Proof

/-- An even byte offset, the only kind a B- or J-format word holds. -/
def evenOffset {n : Nat} (off : BitVec n) : Bool := !off.getLsbD 0

def Instr.wf : Instr → Bool
  | .add _ _ _ | .sub _ _ _ | .sll _ _ _ | .slt _ _ _ | .sltu _ _ _ => true
  | .xor _ _ _ | .srl _ _ _ | .sra _ _ _ | .or _ _ _ | .and _ _ _ => true
  | .addi _ _ _ | .slti _ _ _ | .sltiu _ _ _ | .xori _ _ _ | .ori _ _ _ | .andi _ _ _ => true
  | .slli _ _ _ | .srli _ _ _ | .srai _ _ _ => true
  | .lui _ _ | .auipc _ _ => true
  | .lb _ _ _ | .lh _ _ _ | .lw _ _ _ | .lbu _ _ _ | .lhu _ _ _ => true
  | .sb _ _ _ | .sh _ _ _ | .sw _ _ _ => true
  | .beq _ _ off | .bne _ _ off | .blt _ _ off => evenOffset off
  | .bge _ _ off | .bltu _ _ off | .bgeu _ _ off => evenOffset off
  | .jal _ off => evenOffset off
  | .jalr _ _ _ => true
  | .ecall | .ebreak => true

end Sys2Proof
end

