-- ==== Sys2Proof/Decode.lean ====
section
/-! DEFINITION. The instruction decoder and encoder (30_encoding.md R120–R149, 40_decoder.md R161, R162, R168).
A word is tested against the document's nine format classes; exactly one match gives the instruction,
zero or several reject it by name. The encoder is written from the same format tables. -/

namespace Sys2Proof

/-! ### Fields and immediates -/

/-- `w[lo+len-1 : lo]`. -/
def bits (w : Word) (lo len : Nat) : BitVec len := w.extractLsb' lo len

def opcodeOf (w : Word) : BitVec 7 := bits w 0 7
def rdOf (w : Word) : Reg := bits w 7 5
def funct3Of (w : Word) : BitVec 3 := bits w 12 3
def rs1Of (w : Word) : Reg := bits w 15 5
def rs2Of (w : Word) : Reg := bits w 20 5
def funct7Of (w : Word) : BitVec 7 := bits w 25 7

/-- `w[31:20]`, the I-format field (R123, R128). -/
def immIOf (w : Word) : BitVec 12 := bits w 20 12

/-- `{w[31:25], w[11:7]}`, the S-format field (R124, R129). -/
def immSOf (w : Word) : BitVec 12 := bits w 25 7 ++ bits w 7 5

/-- `{w[31], w[7], w[30:25], w[11:8], 0}`, the B-format offset (R125, R130). -/
def offBOf (w : Word) : BitVec 13 :=
  bits w 31 1 ++ bits w 7 1 ++ bits w 25 6 ++ bits w 8 4 ++ 0#1

/-- `w[31:12]`, the U-format field (R126, R131). -/
def immUOf (w : Word) : BitVec 20 := bits w 12 20

/-- `{w[31], w[19:12], w[20], w[30:21], 0}`, the J-format offset (R127, R132). -/
def offJOf (w : Word) : BitVec 21 :=
  bits w 31 1 ++ bits w 12 8 ++ bits w 20 1 ++ bits w 21 10 ++ 0#1

/-! ### Opcode map (R134) -/

def opOp : BitVec 7 := 0b0110011#7
def opImm : BitVec 7 := 0b0010011#7
def opLoad : BitVec 7 := 0b0000011#7
def opStore : BitVec 7 := 0b0100011#7
def opBranch : BitVec 7 := 0b1100011#7
def opJal : BitVec 7 := 0b1101111#7
def opJalr : BitVec 7 := 0b1100111#7
def opLui : BitVec 7 := 0b0110111#7
def opAuipc : BitVec 7 := 0b0010111#7

/-! ### The nine classes (R161) -/

/-- Register-register (R135). -/
def decodeOp (w : Word) : Option Instr :=
  if opcodeOf w ≠ opOp then none
  else match (funct7Of w).toNat, (funct3Of w).toNat with
    | 0b0000000, 0b000 => some (.add (rdOf w) (rs1Of w) (rs2Of w))
    | 0b0100000, 0b000 => some (.sub (rdOf w) (rs1Of w) (rs2Of w))
    | 0b0000000, 0b001 => some (.sll (rdOf w) (rs1Of w) (rs2Of w))
    | 0b0000000, 0b010 => some (.slt (rdOf w) (rs1Of w) (rs2Of w))
    | 0b0000000, 0b011 => some (.sltu (rdOf w) (rs1Of w) (rs2Of w))
    | 0b0000000, 0b100 => some (.xor (rdOf w) (rs1Of w) (rs2Of w))
    | 0b0000000, 0b101 => some (.srl (rdOf w) (rs1Of w) (rs2Of w))
    | 0b0100000, 0b101 => some (.sra (rdOf w) (rs1Of w) (rs2Of w))
    | 0b0000000, 0b110 => some (.or (rdOf w) (rs1Of w) (rs2Of w))
    | 0b0000000, 0b111 => some (.and (rdOf w) (rs1Of w) (rs2Of w))
    | _, _ => none

/-- Register-immediate (R136); a shift needs its whole `w[31:25]` (D4). -/
def decodeOpImm (w : Word) : Option Instr :=
  if opcodeOf w ≠ opImm then none
  else match (funct3Of w).toNat with
    | 0b000 => some (.addi (rdOf w) (rs1Of w) (immIOf w))
    | 0b010 => some (.slti (rdOf w) (rs1Of w) (immIOf w))
    | 0b011 => some (.sltiu (rdOf w) (rs1Of w) (immIOf w))
    | 0b100 => some (.xori (rdOf w) (rs1Of w) (immIOf w))
    | 0b110 => some (.ori (rdOf w) (rs1Of w) (immIOf w))
    | 0b111 => some (.andi (rdOf w) (rs1Of w) (immIOf w))
    | 0b001 =>
      if funct7Of w = 0b0000000#7 then some (.slli (rdOf w) (rs1Of w) (rs2Of w)) else none
    | 0b101 =>
      if funct7Of w = 0b0000000#7 then some (.srli (rdOf w) (rs1Of w) (rs2Of w))
      else if funct7Of w = 0b0100000#7 then some (.srai (rdOf w) (rs1Of w) (rs2Of w))
      else none
    | _ => none

/-- Load (R137). -/
def decodeLoad (w : Word) : Option Instr :=
  if opcodeOf w ≠ opLoad then none
  else match (funct3Of w).toNat with
    | 0b000 => some (.lb (rdOf w) (rs1Of w) (immIOf w))
    | 0b001 => some (.lh (rdOf w) (rs1Of w) (immIOf w))
    | 0b010 => some (.lw (rdOf w) (rs1Of w) (immIOf w))
    | 0b100 => some (.lbu (rdOf w) (rs1Of w) (immIOf w))
    | 0b101 => some (.lhu (rdOf w) (rs1Of w) (immIOf w))
    | _ => none

/-- Store (R138). -/
def decodeStore (w : Word) : Option Instr :=
  if opcodeOf w ≠ opStore then none
  else match (funct3Of w).toNat with
    | 0b000 => some (.sb (rs1Of w) (rs2Of w) (immSOf w))
    | 0b001 => some (.sh (rs1Of w) (rs2Of w) (immSOf w))
    | 0b010 => some (.sw (rs1Of w) (rs2Of w) (immSOf w))
    | _ => none

/-- Branch (R139). -/
def decodeBranch (w : Word) : Option Instr :=
  if opcodeOf w ≠ opBranch then none
  else match (funct3Of w).toNat with
    | 0b000 => some (.beq (rs1Of w) (rs2Of w) (offBOf w))
    | 0b001 => some (.bne (rs1Of w) (rs2Of w) (offBOf w))
    | 0b100 => some (.blt (rs1Of w) (rs2Of w) (offBOf w))
    | 0b101 => some (.bge (rs1Of w) (rs2Of w) (offBOf w))
    | 0b110 => some (.bltu (rs1Of w) (rs2Of w) (offBOf w))
    | 0b111 => some (.bgeu (rs1Of w) (rs2Of w) (offBOf w))
    | _ => none

/-- Jump-and-link (R140: no function field). -/
def decodeJal (w : Word) : Option Instr :=
  if opcodeOf w ≠ opJal then none else some (.jal (rdOf w) (offJOf w))

/-- Jump-and-link-register (R140: funct3 = 000 only). -/
def decodeJalr (w : Word) : Option Instr :=
  if opcodeOf w ≠ opJalr then none
  else if funct3Of w = 0b000#3 then some (.jalr (rdOf w) (rs1Of w) (immIOf w)) else none

/-- Upper-immediate (R140: no function field). -/
def decodeUpper (w : Word) : Option Instr :=
  if opcodeOf w = opLui then some (.lui (rdOf w) (immUOf w))
  else if opcodeOf w = opAuipc then some (.auipc (rdOf w) (immUOf w))
  else none

/-- System-halt (R141): the whole word must match. -/
def decodeHalt (w : Word) : Option Instr :=
  if w = 0x00000073#32 then some .ecall
  else if w = 0x00100073#32 then some .ebreak
  else none

/-- What each of the nine classes makes of a word, in the document's order. -/
def classMatches (w : Word) : List (Option Instr) :=
  [decodeOp w, decodeOpImm w, decodeLoad w, decodeStore w, decodeBranch w, decodeJal w,
    decodeJalr w, decodeUpper w, decodeHalt w]

/-- Why a word or a byte string is no instruction. -/
inductive DecodeReject where
  /-- fewer than four bytes: no whole word (R120) -/
  | truncated (bytes : Nat)
  /-- no class matches (R142) -/
  | noMatch (w : Word)
  /-- more than one class matches (R162); the tables never do this (R143) -/
  | multipleMatch (w : Word)
  deriving DecidableEq, Repr

/-- The decoder (R161, R162, R168): exactly one class must match. -/
def decode (w : Word) : Except DecodeReject Instr :=
  match (classMatches w).filterMap id with
  | [i] => .ok i
  | [] => .error (.noMatch w)
  | _ :: _ :: _ => .error (.multipleMatch w)

/-! ### Words and bytes (R87, R88: little-endian) -/

/-- The word whose bytes, lowest address first, are given. -/
def wordOfBytes (b0 b1 b2 b3 : Byte) : Word := b3 ++ b2 ++ b1 ++ b0

/-- The byte of lane `k` of a word: bits `[8k+7 : 8k]` (R81, R87). -/
def byteLane (w : Word) (k : Nat) : Byte := w.extractLsb' (8 * k) 8

/-- A word's bytes, lowest address first. -/
def bytesOfWord (w : Word) : List Byte := [byteLane w 0, byteLane w 1, byteLane w 2, byteLane w 3]

/-- The decoder on memory bytes: one word, four bytes, and the rest (R120, R146). -/
def decodeBytes : List Byte → Except DecodeReject (Instr × List Byte)
  | b0 :: b1 :: b2 :: b3 :: rest =>
    match decode (wordOfBytes b0 b1 b2 b3) with
    | .ok i => .ok (i, rest)
    | .error e => .error e
  | bs => .error (.truncated bs.length)

/-- The host's numbering is the spec's (R88): bit i of the number is bit i of the word. -/
def decodeTableWord (nbits w : Nat) : Option Instr :=
  match decodeBytes (bytesOfWord (BitVec.ofNat 32 (w % 2 ^ nbits))) with
  | .ok (i, _) => some i
  | .error _ => none

/-! ### The encoder (R122–R127) -/

def encodeR (funct7 : BitVec 7) (rs2 rs1 : Reg) (funct3 : BitVec 3) (rd : Reg) (op : BitVec 7) :
    Word :=
  funct7 ++ rs2 ++ rs1 ++ funct3 ++ rd ++ op

def encodeI (imm : BitVec 12) (rs1 : Reg) (funct3 : BitVec 3) (rd : Reg) (op : BitVec 7) : Word :=
  imm ++ rs1 ++ funct3 ++ rd ++ op

def encodeS (imm : BitVec 12) (rs2 rs1 : Reg) (funct3 : BitVec 3) : Word :=
  imm.extractLsb' 5 7 ++ rs2 ++ rs1 ++ funct3 ++ imm.extractLsb' 0 5 ++ opStore

def encodeB (off : BitVec 13) (rs2 rs1 : Reg) (funct3 : BitVec 3) : Word :=
  off.extractLsb' 12 1 ++ off.extractLsb' 5 6 ++ rs2 ++ rs1 ++ funct3 ++ off.extractLsb' 1 4
    ++ off.extractLsb' 11 1 ++ opBranch

def encodeU (imm : BitVec 20) (rd : Reg) (op : BitVec 7) : Word := imm ++ rd ++ op

def encodeJ (off : BitVec 21) (rd : Reg) : Word :=
  off.extractLsb' 20 1 ++ off.extractLsb' 1 10 ++ off.extractLsb' 11 1 ++ off.extractLsb' 12 8
    ++ rd ++ opJal

/-- The word of a well-formed instruction (R134–R141). -/
def encode : Instr → Word
  | .add rd rs1 rs2 => encodeR 0b0000000#7 rs2 rs1 0b000#3 rd opOp
  | .sub rd rs1 rs2 => encodeR 0b0100000#7 rs2 rs1 0b000#3 rd opOp
  | .sll rd rs1 rs2 => encodeR 0b0000000#7 rs2 rs1 0b001#3 rd opOp
  | .slt rd rs1 rs2 => encodeR 0b0000000#7 rs2 rs1 0b010#3 rd opOp
  | .sltu rd rs1 rs2 => encodeR 0b0000000#7 rs2 rs1 0b011#3 rd opOp
  | .xor rd rs1 rs2 => encodeR 0b0000000#7 rs2 rs1 0b100#3 rd opOp
  | .srl rd rs1 rs2 => encodeR 0b0000000#7 rs2 rs1 0b101#3 rd opOp
  | .sra rd rs1 rs2 => encodeR 0b0100000#7 rs2 rs1 0b101#3 rd opOp
  | .or rd rs1 rs2 => encodeR 0b0000000#7 rs2 rs1 0b110#3 rd opOp
  | .and rd rs1 rs2 => encodeR 0b0000000#7 rs2 rs1 0b111#3 rd opOp
  | .addi rd rs1 imm => encodeI imm rs1 0b000#3 rd opImm
  | .slti rd rs1 imm => encodeI imm rs1 0b010#3 rd opImm
  | .sltiu rd rs1 imm => encodeI imm rs1 0b011#3 rd opImm
  | .xori rd rs1 imm => encodeI imm rs1 0b100#3 rd opImm
  | .ori rd rs1 imm => encodeI imm rs1 0b110#3 rd opImm
  | .andi rd rs1 imm => encodeI imm rs1 0b111#3 rd opImm
  | .slli rd rs1 shamt => encodeR 0b0000000#7 shamt rs1 0b001#3 rd opImm
  | .srli rd rs1 shamt => encodeR 0b0000000#7 shamt rs1 0b101#3 rd opImm
  | .srai rd rs1 shamt => encodeR 0b0100000#7 shamt rs1 0b101#3 rd opImm
  | .lui rd imm => encodeU imm rd opLui
  | .auipc rd imm => encodeU imm rd opAuipc
  | .lb rd rs1 imm => encodeI imm rs1 0b000#3 rd opLoad
  | .lh rd rs1 imm => encodeI imm rs1 0b001#3 rd opLoad
  | .lw rd rs1 imm => encodeI imm rs1 0b010#3 rd opLoad
  | .lbu rd rs1 imm => encodeI imm rs1 0b100#3 rd opLoad
  | .lhu rd rs1 imm => encodeI imm rs1 0b101#3 rd opLoad
  | .sb rs1 rs2 imm => encodeS imm rs2 rs1 0b000#3
  | .sh rs1 rs2 imm => encodeS imm rs2 rs1 0b001#3
  | .sw rs1 rs2 imm => encodeS imm rs2 rs1 0b010#3
  | .beq rs1 rs2 off => encodeB off rs2 rs1 0b000#3
  | .bne rs1 rs2 off => encodeB off rs2 rs1 0b001#3
  | .blt rs1 rs2 off => encodeB off rs2 rs1 0b100#3
  | .bge rs1 rs2 off => encodeB off rs2 rs1 0b101#3
  | .bltu rs1 rs2 off => encodeB off rs2 rs1 0b110#3
  | .bgeu rs1 rs2 off => encodeB off rs2 rs1 0b111#3
  | .jal rd off => encodeJ off rd
  | .jalr rd rs1 imm => encodeI imm rs1 0b000#3 rd opJalr
  | .ecall => 0x00000073#32
  | .ebreak => 0x00100073#32

/-! ### The machine-readable opcode table (R149) -/

/-- One row of spec/opcode_table.json: `w` is the instruction exactly when `w &&& mask = pattern`. -/
structure OpcodeRow where
  mnemonic : String
  pattern  : Word
  mask     : Word
  deriving DecidableEq, Repr

def OpcodeRow.fits (r : OpcodeRow) (w : Word) : Bool := decide (w &&& r.mask = r.pattern)

/-- The 39 rows of spec/opcode_table.json. -/
def opcodeTable : List OpcodeRow :=
  [
    ⟨"ADD", 0x00000033#32, 0xfe00707f#32⟩,
    ⟨"SUB", 0x40000033#32, 0xfe00707f#32⟩,
    ⟨"SLL", 0x00001033#32, 0xfe00707f#32⟩,
    ⟨"SLT", 0x00002033#32, 0xfe00707f#32⟩,
    ⟨"SLTU", 0x00003033#32, 0xfe00707f#32⟩,
    ⟨"XOR", 0x00004033#32, 0xfe00707f#32⟩,
    ⟨"SRL", 0x00005033#32, 0xfe00707f#32⟩,
    ⟨"SRA", 0x40005033#32, 0xfe00707f#32⟩,
    ⟨"OR", 0x00006033#32, 0xfe00707f#32⟩,
    ⟨"AND", 0x00007033#32, 0xfe00707f#32⟩] ++
  [
    ⟨"ADDI", 0x00000013#32, 0x0000707f#32⟩,
    ⟨"SLTI", 0x00002013#32, 0x0000707f#32⟩,
    ⟨"SLTIU", 0x00003013#32, 0x0000707f#32⟩,
    ⟨"XORI", 0x00004013#32, 0x0000707f#32⟩,
    ⟨"ORI", 0x00006013#32, 0x0000707f#32⟩,
    ⟨"ANDI", 0x00007013#32, 0x0000707f#32⟩,
    ⟨"SLLI", 0x00001013#32, 0xfe00707f#32⟩,
    ⟨"SRLI", 0x00005013#32, 0xfe00707f#32⟩,
    ⟨"SRAI", 0x40005013#32, 0xfe00707f#32⟩,
    ⟨"LUI", 0x00000037#32, 0x0000007f#32⟩,
    ⟨"AUIPC", 0x00000017#32, 0x0000007f#32⟩] ++
  [
    ⟨"LB", 0x00000003#32, 0x0000707f#32⟩,
    ⟨"LH", 0x00001003#32, 0x0000707f#32⟩,
    ⟨"LW", 0x00002003#32, 0x0000707f#32⟩,
    ⟨"LBU", 0x00004003#32, 0x0000707f#32⟩,
    ⟨"LHU", 0x00005003#32, 0x0000707f#32⟩,
    ⟨"SB", 0x00000023#32, 0x0000707f#32⟩,
    ⟨"SH", 0x00001023#32, 0x0000707f#32⟩,
    ⟨"SW", 0x00002023#32, 0x0000707f#32⟩] ++
  [
    ⟨"BEQ", 0x00000063#32, 0x0000707f#32⟩,
    ⟨"BNE", 0x00001063#32, 0x0000707f#32⟩,
    ⟨"BLT", 0x00004063#32, 0x0000707f#32⟩,
    ⟨"BGE", 0x00005063#32, 0x0000707f#32⟩,
    ⟨"BLTU", 0x00006063#32, 0x0000707f#32⟩,
    ⟨"BGEU", 0x00007063#32, 0x0000707f#32⟩,
    ⟨"JAL", 0x0000006f#32, 0x0000007f#32⟩,
    ⟨"JALR", 0x00000067#32, 0x0000707f#32⟩,
    ⟨"ECALL", 0x00000073#32, 0xffffffff#32⟩,
    ⟨"EBREAK", 0x00100073#32, 0xffffffff#32⟩]

/-- The row of the opcode table an instruction belongs to. -/
def Instr.mnemonic : Instr → String
  | .add _ _ _ => "ADD"
  | .sub _ _ _ => "SUB"
  | .sll _ _ _ => "SLL"
  | .slt _ _ _ => "SLT"
  | .sltu _ _ _ => "SLTU"
  | .xor _ _ _ => "XOR"
  | .srl _ _ _ => "SRL"
  | .sra _ _ _ => "SRA"
  | .or _ _ _ => "OR"
  | .and _ _ _ => "AND"
  | .addi _ _ _ => "ADDI"
  | .slti _ _ _ => "SLTI"
  | .sltiu _ _ _ => "SLTIU"
  | .xori _ _ _ => "XORI"
  | .ori _ _ _ => "ORI"
  | .andi _ _ _ => "ANDI"
  | .slli _ _ _ => "SLLI"
  | .srli _ _ _ => "SRLI"
  | .srai _ _ _ => "SRAI"
  | .lui _ _ => "LUI"
  | .auipc _ _ => "AUIPC"
  | .lb _ _ _ => "LB"
  | .lh _ _ _ => "LH"
  | .lw _ _ _ => "LW"
  | .lbu _ _ _ => "LBU"
  | .lhu _ _ _ => "LHU"
  | .sb _ _ _ => "SB"
  | .sh _ _ _ => "SH"
  | .sw _ _ _ => "SW"
  | .beq _ _ _ => "BEQ"
  | .bne _ _ _ => "BNE"
  | .blt _ _ _ => "BLT"
  | .bge _ _ _ => "BGE"
  | .bltu _ _ _ => "BLTU"
  | .bgeu _ _ _ => "BGEU"
  | .jal _ _ => "JAL"
  | .jalr _ _ _ => "JALR"
  | .ecall => "ECALL"
  | .ebreak => "EBREAK"

end Sys2Proof
end

