-- ==== Sys2Proof/Machine/State.lean ====
section
/-! DEFINITION. The machine's state (10_state.md, whole; R50), its reset value (R490), and the reasons a
step can stop. Everything the spec gives the core is here: the register file, the architectural pc, the
two memory instances, the Fetch fields, the stage registers D, E, M and W, the occupancy counters, the
bypass record, the predictor table, and beside them the harness's cycle count and run status (R471).
The one field of the model's own is `stored`. -/

namespace Sys2Proof.Machine

/-! ### The control bundle (40_decoder.md R160) -/

/-- The ten ALU opcodes (R160, R200). -/
inductive AluOp where
  | add | sub | sll | slt | sltu | xor | sra | srl | or | and
  deriving DecidableEq, Repr

/-- Operand sources (R160). `four` is legal and no control row selects it (I19). -/
inductive OperandSel where
  | src1 | src2 | imm | pc | four
  deriving DecidableEq, Repr

/-- Memory-operation kinds (R160). -/
inductive MemKind where
  | none | lb | lbu | lh | lhu | lw | sb | sh | sw
  deriving DecidableEq, Repr

/-- Write-back sources (R160). -/
inductive WbSrc where
  | alu | mem | pc4
  deriving DecidableEq, Repr

/-- The decoder's output record (R40, R160). -/
structure Bundle where
  rdValid  : Bool
  rd       : Reg
  rs1Valid : Bool
  rs1      : Reg
  rs2Valid : Bool
  rs2      : Reg
  imm      : Word
  alu      : AluOp
  op1Sel   : OperandSel
  op2Sel   : OperandSel
  mem      : MemKind
  isBranch : Bool
  flip     : Bool
  uncond   : Bool
  wbSrc    : WbSrc
  halt     : Bool
  deriving DecidableEq, Repr

/-- The all-zero bundle of an empty or decode-marker entry (R41, R397). DESIGN CHOICE (log 10): the spec numbers no
value of `alu`, `op1_sel`, `op2_sel` and `wb_src`; their "0" is ADD, SRC1, SRC1 and ALU here. -/
def Bundle.zero : Bundle :=
  { rdValid := false, rd := 0#5, rs1Valid := false, rs1 := 0#5, rs2Valid := false, rs2 := 0#5, imm := 0#32
    alu := .add, op1Sel := .src1, op2Sel := .src1, mem := .none, isBranch := false, flip := false
    uncond := false, wbSrc := .alu, halt := false }

/-! ### Why a step stops -/

/-- The kinds a marker can carry (60_exceptions.md R452). A stage register's `fault` field is an
`Option FaultKind`: `none` is the spec's NONE. -/
inductive FaultKind where
  | decodeFault
  | fetchFault
  | misalignedTarget
  | misalignedAccess
  | accessOutOfRange
  deriving DecidableEq, Repr

/-- What the harness receives with a fault (R461): `fault_addr`, the instruction's address and its word. -/
structure Report where
  faultAddr : Word
  pc        : Word
  word      : Word
  deriving DecidableEq, Repr

/-- The asserted invariants (45_occupancy_bypass.md R341) with the register the report names (R458). -/
inductive Violation where
  | flushAndStall
  | overflow (r : Reg)
  | underflow (r : Reg)
  deriving DecidableEq, Repr

/-- The faults that end a run (60_exceptions.md R451, codes 2 to 7). The core takes no traps (R450):
each is a final stop with its report. -/
inductive Fault where
  /-- R453. Raised by `step`'s fetch and by `tick` when the word matches no instruction. Safe: the core
  stops there too. -/
  | decodeFault (r : Report)
  /-- R458. Raised by `tick` only, when an asserted invariant breaks; unreachable from reset (R340, R417).
  Safe: the core stops there too. -/
  | hazardViolation (v : Violation)
  /-- R454. Raised by `step`'s fetch and by `tick` at a word index outside memory. Safe (D14). -/
  | fetchFault (r : Report)
  /-- R455. Raised by a taken branch, JAL or JALR to a target not a multiple of 4. Safe (D17). -/
  | misalignedTarget (r : Report)
  /-- R456. Raised by a load or store whose address is not a multiple of its size. Safe (D16). -/
  | misalignedAccess (r : Report)
  /-- R457. Raised by an aligned load or store outside data memory. Safe (D14). -/
  | accessOutOfRange (r : Report)
  deriving DecidableEq, Repr

/-- What the model rejects as a modelling error, not a core behaviour (93_implementation_defined.md). -/
inductive Refusal where
  /-- An instruction without a meaning yet. Raised by no arm of `exec`. Safe. -/
  | notModelled (mnemonic : String)
  /-- I7, R103, R496. Raised by `step` and `tick` when the committed path decodes a word at an address a
  committed store wrote. Safe: no claim is made about such a run. -/
  | selfModifying (pc : Word)
  /-- I15, R470. Raised by `boot` on an image longer than MEM_WORDS. Safe. -/
  | imageTooLong (words : Nat)
  /-- R10, R490. Raised by `boot` on parameters outside their ranges. Safe. -/
  | badParameters
  deriving DecidableEq, Repr

/-! ### The pipeline's registers -/

/-- The Fetch fields (10_state.md R38). -/
structure FetchRegs where
  pc          : Word
  redirValid  : Bool
  redirTarget : Word
  stall       : Bool
  halted      : Bool
  deriving DecidableEq, Repr

/-- The Fetch→Decode register D (R39). -/
structure DecodeReg where
  valid  : Bool
  pc     : Word
  word   : Word
  poison : Bool
  deriving DecidableEq, Repr

/-- What every one of E, M and W holds (R40–R43). -/
structure Entry where
  valid     : Bool
  pc        : Word
  word      : Word
  c         : Bundle
  pred      : Bool
  fault     : Option FaultKind
  faultAddr : Word
  deriving DecidableEq, Repr

/-- The Decode→Execute register E (R41). -/
structure ExecuteReg extends Entry where
  v1 : Word
  v2 : Word
  deriving DecidableEq, Repr

/-- The Execute→Memory register M (R42; 90_conflicts.md C15). -/
structure MemoryReg extends Entry where
  res : Word
  sd  : Word
  act : Bool
  deriving DecidableEq, Repr

/-- The Memory→WriteBack register W (R43). -/
structure WriteBackReg extends MemoryReg where
  mw : Word
  deriving DecidableEq, Repr

/-- The bypass record (R45, R335). -/
structure BypassRecord where
  pendD : Option Reg
  bypE  : Option Reg
  bypM  : Option Reg
  deriving DecidableEq, Repr

def DecodeReg.bubble : DecodeReg := { valid := false, pc := 0#32, word := 0#32, poison := false }

def Entry.bubble : Entry :=
  { valid := false, pc := 0#32, word := 0#32, c := .zero, pred := false, fault := none, faultAddr := 0#32 }

def ExecuteReg.bubble : ExecuteReg := { toEntry := .bubble, v1 := 0#32, v2 := 0#32 }

def MemoryReg.bubble : MemoryReg := { toEntry := .bubble, res := 0#32, sd := 0#32, act := false }

def WriteBackReg.bubble : WriteBackReg := { toMemoryReg := .bubble, mw := 0#32 }

def BypassRecord.empty : BypassRecord := { pendD := none, bypE := none, bypM := none }

/-! ### The state -/

/-- How the run stands, the harness's record (R451, R471): Halted is the normal end; a fault status is
left behind by the cycle machine when a marker reaches WriteBack. -/
inductive RunStatus where
  | running
  | halted
  | faulted (f : Fault)
  deriving DecidableEq, Repr

/-- The 32 general registers (R30). -/
abbrev RegFile := Vector Word 32

/-- The 32 two-bit occupancy counters (R44). -/
abbrev Counters := Vector (BitVec 2) 32

/-- One memory instance: its bytes by address, in the canonical form of `Memory.wf` (Ops). -/
abbrev Memory := List Host.Cell

/-- The adaptive predictor's entries by index (R46, R374); an unlisted entry is at PRED_RESET. -/
abbrev PredTable := List (Nat × BitVec 2)

/-- The whole machine at the start of a cycle, or between two instructions. `pc` is the architectural
program counter: the address of the next instruction to commit (R33). -/
structure State where
  /-- the run's parameters, never written (R10) -/
  cfg    : Config
  regs   : RegFile
  pc     : Word
  /-- instruction memory (R80, R85) -/
  imem   : Memory
  /-- data memory (R80) -/
  dmem   : Memory
  f      : FetchRegs
  d      : DecodeReg
  e      : ExecuteReg
  m      : MemoryReg
  w      : WriteBackReg
  cnt    : Counters
  bypass : BypassRecord
  ptab   : PredTable
  /-- the harness's cycle count (R419, R471) -/
  cycle  : Nat
  /-- the harness's termination status (R471) -/
  status : RunStatus
  /-- the model's own: the word indices committed stores have written, rising (D32, I7) -/
  stored : List Nat
  deriving DecidableEq, Repr

/-- R490 for given parameters, before an image is loaded: memory lists nothing. -/
def State.resetWith (cfg : Config) : State :=
  { cfg := cfg
    regs := Vector.replicate 32 0#32
    pc := cfg.resetPc
    imem := []
    dmem := []
    f := { pc := 0#32, redirValid := true, redirTarget := cfg.resetPc, stall := false, halted := false }
    d := .bubble
    e := .bubble
    m := .bubble
    w := .bubble
    cnt := Vector.replicate 32 0#2
    bypass := .empty
    ptab := []
    cycle := 0
    status := .running
    stored := [] }

/-- The machine right after reset (R490, R491). -/
def State.reset : State := State.resetWith Config.standard

end Sys2Proof.Machine
end

