-- ==== Sys2Proof/Machine/Alu.lean ====
section
/-! DEFINITION. The ArithmeticUnit (41_alu_instructions.md R200–R212): a pure function of an opcode and two
words. It has no carry or overflow output and no state (R211, R212). -/

namespace Sys2Proof.Machine

/-- The shift amount of operand 2: its low 5 bits (R211). -/
def shiftAmount (b : Word) : Nat := (b.extractLsb' 0 5).toNat

/-- A comparison's result word (R204, R205). -/
def boolWord (p : Bool) : Word := if p then 1#32 else 0#32

/-- `ALU(op, a, b)`. -/
def alu : AluOp → Word → Word → Word
  | .add, a, b => a + b
  | .sub, a, b => a - b
  | .sll, a, b => a <<< shiftAmount b
  | .slt, a, b => boolWord (a.slt b)
  | .sltu, a, b => boolWord (a.ult b)
  | .xor, a, b => a ^^^ b
  | .sra, a, b => a.sshiftRight (shiftAmount b)
  | .srl, a, b => a >>> shiftAmount b
  | .or, a, b => a ||| b
  | .and, a, b => a &&& b

end Sys2Proof.Machine
end

