-- ==== Sys2Proof/Machine/Flags.lean ====
section
/-! DEFINITION. Conditions. The core has no flags or condition codes (10_state.md R35); what a branch decides on is
computed here from the ALU result (43_control_transfer.md R280), and alignment of a target (R284). -/

namespace Sys2Proof.Machine

/-- `actual_taken = (result != 0) XOR branch_flip` (R280, R404). -/
def branchTaken (res : Word) (flip : Bool) : Bool := (res != 0#32) ^^ flip

/-- `target[1:0] ≠ 0` (R284). -/
def targetMisaligned (target : Word) : Bool := target.extractLsb' 0 2 != 0#2

end Sys2Proof.Machine
end

