-- ==== Sys2Proof/Machine/Operands.lean ====
section
/-! DEFINITION. Operand forms: the 32-bit immediates (30_encoding.md R128–R133), the address arithmetic of
loads, stores and control transfers (42_load_store.md R250, 43_control_transfer.md R281), the operand
selectors (47_pipeline.md R403), and a load's lane selection and extension (42_load_store.md R252). -/

namespace Sys2Proof.Machine

/-! ### Immediates -/

/-- `imm_I` and `imm_S`: a 12-bit field, sign-extended (R128, R129). -/
def imm12 (imm : BitVec 12) : Word := imm.signExtend 32

/-- `imm_B` (R130). -/
def immB (off : BitVec 13) : Word := off.signExtend 32

/-- `imm_U = {w[31:12], 0x000}` (R131). -/
def immU (imm : BitVec 20) : Word := imm ++ 0#12

/-- `imm_J` (R132). -/
def immJ (off : BitVec 21) : Word := off.signExtend 32

/-- `imm_I` of a shift-immediate word, whose `w[31:20]` is funct7 over shamt (R133). -/
def immShift (funct7 : BitVec 7) (shamt : BitVec 5) : Word := imm12 (funct7 ++ shamt)

/-! ### Addresses -/

/-- The effective address of a load or store, `u32(x[rs1] + imm)` (R250). -/
def effectiveAddress (base : Word) (imm : BitVec 12) : Word := alu .add base (imm12 imm)

/-- The fall-through and link address, `u32(pc + 4)` (R34). -/
def nextPc (pc : Word) : Word := pc + 4#32

/-- `btarget = u32(pc + imm_B)` (R281). -/
def branchTarget (pc : Word) (off : BitVec 13) : Word := pc + immB off

/-- A jump's ALU result with bit 0 cleared (R281, R405). -/
def jumpTarget (res : Word) : Word := res &&& 0xFFFFFFFE#32

/-- The word index a byte address is sent to memory as, `a[31:2]` (20_memory.md R82). -/
def wordIndex (a : Word) : Nat := (a.extractLsb' 2 30).toNat

/-- The byte lane `a[1:0]` (R82, R87). -/
def laneOf (a : Word) : Nat := (a.extractLsb' 0 2).toNat

/-! ### Memory kinds -/

/-- Bytes moved: n of R94. `none` moves nothing. -/
def MemKind.width : MemKind → Nat
  | .none => 0
  | .lb | .lbu | .sb => 1
  | .lh | .lhu | .sh => 2
  | .lw | .sw => 4

def MemKind.isLoad : MemKind → Bool
  | .lb | .lbu | .lh | .lhu | .lw => true
  | .none | .sb | .sh | .sw => false

def MemKind.isStore : MemKind → Bool
  | .sb | .sh | .sw => true
  | .none | .lb | .lbu | .lh | .lhu | .lw => false

/-- `LoadExtend(mw, kind, off)` (R252): the addressed lane of the full word, extended by the kind.
The spec gives no value for a kind that is no load: a free value (log 6), which no control row reaches. -/
def loadExtend (mw : Word) (k : MemKind) (lane : Nat) : Word :=
  let low := mw >>> (8 * lane)
  match k with
  | .lb => (low.extractLsb' 0 8).signExtend 32
  | .lbu => (low.extractLsb' 0 8).setWidth 32
  | .lh => (low.extractLsb' 0 16).signExtend 32
  | .lhu => (low.extractLsb' 0 16).setWidth 32
  | .lw => mw
  | .none | .sb | .sh | .sw => Config.noLoadValue mw lane

/-! ### Operand selectors -/

/-- `opnd(sel)` of Execute, from the entry's own fields (R403, R13). -/
def operand (e : ExecuteReg) : OperandSel → Word
  | .src1 => e.v1
  | .src2 => e.v2
  | .imm => e.c.imm
  | .pc => e.pc
  | .four => 4#32

end Sys2Proof.Machine
end

