-- ==== Sys2Proof/Machine/Sparse.lean ====
section
/-! DEFINITION. Sparse data by key: lists of (key, value) in one canonical form, keys strictly rising and no
entry equal to what an unlisted key holds. Both memory instances and the predictor table use it. -/

namespace Sys2Proof.Machine

/-- What the list holds at key `a`; an unlisted key holds `d`. -/
def sparseGet {α : Type} (d : α) : List (Nat × α) → Nat → α
  | [], _ => d
  | (k, v) :: t, a => if a = k then v else sparseGet d t a

/-- The list with `v` at key `a`; writing `d` unlists the key. -/
def sparsePut {α : Type} [DecidableEq α] (d : α) : List (Nat × α) → Nat → α → List (Nat × α)
  | [], a, v => if v = d then [] else [(a, v)]
  | (k, u) :: t, a, v =>
    if a < k then (if v = d then (k, u) :: t else (a, v) :: (k, u) :: t)
    else if a = k then (if v = d then t else (a, v) :: t)
    else (k, u) :: sparsePut d t a v

/-- The canonical form. -/
def sparseWf {α : Type} [DecidableEq α] (d : α) : List (Nat × α) → Bool
  | [] => true
  | (k, v) :: t => !decide (v = d) && t.all (fun c => decide (k < c.1)) && sparseWf d t

/-- Every listed key lies below `n`. -/
def sparseBelow {α : Type} (n : Nat) (m : List (Nat × α)) : Bool := m.all (fun c => decide (c.1 < n))

/-- A rising list of indices with `i` added. -/
def insertIndex : List Nat → Nat → List Nat
  | [], i => [i]
  | k :: t, i => if i < k then i :: k :: t else if i = k then k :: t else k :: insertIndex t i

end Sys2Proof.Machine
end

