-- ==== Sys2Proof/Machine/Predictor.lean ====
section
/-! DEFINITION. The branch predictor (46_branch_predictor.md R370–R380): `predict` and `update` over the three
policies. Only the adaptive policy holds state. -/

namespace Sys2Proof.Machine

/-- `address[PRED_BITS−1 : 0]` (R374). -/
def predIndex (cfg : Config) (a : Word) : Nat := a.toNat % 2 ^ cfg.predBits

/-- The level of entry `i` (R375); an entry never updated is at PRED_RESET (R46). -/
def PredTable.level (t : PredTable) (i : Nat) : BitVec 2 := sparseGet predReset t i

/-- One level toward strongly taken or strongly not-taken, saturating at 3 and 0 (R376). -/
def moveLevel (l : BitVec 2) (actual : Bool) : BitVec 2 :=
  if actual then (if l = 3#2 then 3#2 else l + 1#2) else (if l = 0#2 then 0#2 else l - 1#2)

/-- `predict(address)` (R372, R375, R377). -/
def predict (cfg : Config) (t : PredTable) (a : Word) : Bool :=
  match cfg.predictor with
  | .alwaysTaken => true
  | .neverTaken => false
  | .adaptive => decide (2 ≤ (t.level (predIndex cfg a)).toNat)

/-- `update(address, predicted, actual)` (R373, R376, R377); no policy uses `predicted` (I20). -/
def updatePredictor (cfg : Config) (t : PredTable) (a : Word) (_predicted actual : Bool) :
    PredTable :=
  match cfg.predictor with
  | .alwaysTaken | .neverTaken => t
  | .adaptive =>
    let i := predIndex cfg a
    sparsePut predReset t i (moveLevel (t.level i) actual)

end Sys2Proof.Machine
end

