-- ==== Sys2Proof/Machine/Ops.lean ====
section
/-! DEFINITION. The named operations over registers and memory, raising a fault, the halt, the fetch, and the
pipeline restart. Meanings are written over these. -/

namespace Sys2Proof.Machine

/-- What a meaning or a step answers. -/
abbrev Result := Host.Outcome State Fault Refusal

/-! ### Registers (10_state.md R30, R34) -/

/-- `x[r]`: x0 reads 0. -/
def State.x (s : State) (r : Reg) : Word := if r = 0#5 then 0#32 else s.regs[r.toNat]'r.isLt

/-- `x[r] <- v` on a register file: a write to x0 has no effect. -/
def RegFile.write (regs : RegFile) (r : Reg) (v : Word) : RegFile :=
  if r = 0#5 then regs else regs.set r.toNat v r.isLt

/-- `x[r] <- v`. -/
def State.writeReg (s : State) (r : Reg) (v : Word) : State := { s with regs := s.regs.write r v }

/-- `pc <- a`. -/
def State.setPc (s : State) (a : Word) : State := { s with pc := a }

/-- The default `pc <- u32(pc + 4)` (R34). -/
def State.advance (s : State) : State := s.setPc (nextPc s.pc)

/-! ### Memory (20_memory.md) -/

/-- What a byte that nothing has written and no image covers reads as. The spec leaves DMEM_FILL open
(R86, D21). DESIGN CHOICE (log 1, unsafe): 0; `boot` takes any drawn contents instead. -/
def Memory.fill : Byte := 0#8

/-- The canonical form of a memory instance. -/
def Memory.wf (m : Memory) : Bool := sparseWf Memory.fill m

/-- The byte at a byte address. -/
def Memory.byte (m : Memory) (a : Nat) : Byte := sparseGet Memory.fill m a

/-- The memory with one byte written. -/
def Memory.setByte (m : Memory) (a : Nat) (b : Byte) : Memory := sparsePut Memory.fill m a b

/-- `read(word_address)` of the device (R81, R87). -/
def Memory.readWord (m : Memory) (idx : Nat) : Word :=
  wordOfBytes (m.byte (4 * idx)) (m.byte (4 * idx + 1)) (m.byte (4 * idx + 2)) (m.byte (4 * idx + 3))

/-- One byte lane of a masked write (R81). -/
def Memory.writeLane (m : Memory) (idx : Nat) (data : Word) (mask : BitVec 4) (k : Nat) : Memory :=
  if mask.getLsbD k then m.setByte (4 * idx + k) (byteLane data k) else m

/-- `write(word_address, data, byte_mask)` of the device (R81): lanes outside the mask keep their bytes. -/
def Memory.writeWord (m : Memory) (idx : Nat) (data : Word) (mask : BitVec 4) : Memory :=
  (((m.writeLane idx data mask 0).writeLane idx data mask 1).writeLane idx data mask 2).writeLane
    idx data mask 3

/-- The byte mask of an n-byte store, `((1 << n) − 1) << addr[1:0]` (R91). -/
def storeMask (addr : Word) (n : Nat) : BitVec 4 := BitVec.ofNat 4 (2 ^ n - 1) <<< laneOf addr

/-- The shifted data of an n-byte store, `u32(v[8n−1:0] << (8·addr[1:0]))` (R91). -/
def storeData (addr : Word) (n : Nat) (v : Word) : Word :=
  (v.setWidth (8 * n)).setWidth 32 <<< (8 * laneOf addr)

/-- `MemWrite(addr, n, v)` (R91). -/
def Memory.store (m : Memory) (addr : Word) (n : Nat) (v : Word) : Memory :=
  m.writeWord (wordIndex addr) (storeData addr n v) (storeMask addr n)

/-- The value a load commits: the full word read, its lane extended (R90, R252). -/
def Memory.load (m : Memory) (addr : Word) (k : MemKind) : Word :=
  loadExtend (m.readWord (wordIndex addr)) k (laneOf addr)

/-- A word index is in range when `a[31:2] < MEM_WORDS` (R83). -/
def inRange (cfg : Config) (a : Word) : Bool := decide (wordIndex a < cfg.memWords)

/-- `AccessCheck(addr, n)` (42_load_store.md R251): alignment first, then range. -/
def accessCheck (cfg : Config) (addr : Word) (n : Nat) : Option FaultKind :=
  if addr.toNat % n ≠ 0 then some .misalignedAccess
  else if !inRange cfg addr then some .accessOutOfRange
  else none

/-- Data memory replaced. -/
def State.setDmem (s : State) (m : Memory) : State := { s with dmem := m }

/-- A committed store of `addr`'s word is remembered, for the refusal of I7. -/
def State.noteStore (s : State) (addr : Word) : State :=
  { s with stored := insertIndex s.stored (wordIndex addr) }

/-! ### Raising a fault (47_pipeline.md R414, 60_exceptions.md R461)

The core takes no traps (R450): there is no saved pc, no status word, no handler and no return (R462).
A fault ends the run with its report, the architectural state being the one just before the
instruction. -/

/-- The fault a marker kind ends the run with (R411, R452). -/
def FaultKind.toFault : FaultKind → Report → Fault
  | .decodeFault, r => .decodeFault r
  | .fetchFault, r => .fetchFault r
  | .misalignedTarget, r => .misalignedTarget r
  | .misalignedAccess, r => .misalignedAccess r
  | .accessOutOfRange, r => .accessOutOfRange r

/-- `raise <Fault>(info)` by the instruction at the architectural pc whose word is `word`. -/
def State.raise (s : State) (k : FaultKind) (info word : Word) : Result :=
  .fault (k.toFault { faultAddr := info, pc := s.pc, word := word })

/-- `HaltStep()` (44_system_halt.md R310, R313): no register, memory or pc change; the run ends Halted and
the forced-stall latch is set. -/
def State.haltStep (s : State) : State :=
  { s with status := .halted, f := { s.f with halted := true } }

/-- A committed branch trains the predictor (46_branch_predictor.md R373). -/
def State.trainBranch (s : State) (taken : Bool) : State :=
  { s with ptab := updatePredictor s.cfg s.ptab s.pc (predict s.cfg s.ptab s.pc) taken }

/-! ### Fetch at the architectural pc, and the restart -/

/-- The whole word at `pc[31:2]` of instruction memory, none outside it (R83, R88, R93). -/
def State.fetchWord (s : State) : Option Word :=
  if inRange s.cfg s.pc then some (s.imem.readWord (wordIndex s.pc)) else none

/-- The committed path is about to decode a word a committed store wrote (I7, R103). -/
def State.selfModified (s : State) : Bool := s.stored.contains (wordIndex s.pc)

/-- The pipeline emptied and steered to the architectural pc, as reset leaves it (R490, R491); after a
termination nothing is pending and the halt latch is set (R317, R418). -/
def State.restart (s : State) : State :=
  { s with
    f := { pc := s.f.pc
           redirValid := decide (s.status = .running)
           redirTarget := s.pc
           stall := false
           halted := !decide (s.status = .running) }
    d := .bubble
    e := .bubble
    m := .bubble
    w := .bubble
    cnt := Vector.replicate 32 0#2
    bypass := .empty }

/-- A result with a function applied to its next state. -/
def mapNext (g : State → State) : Result → Result
  | .next s => .next (g s)
  | .fault r => .fault r
  | .refused r => .refused r

/-- One instruction fetched at the architectural pc, decoded and handed to `run`. -/
def State.fetchAndRun (s : State) (run : Instr → State → Result) : Result :=
  if s.status ≠ .running then .next s
  else if s.selfModified then .refused (.selfModifying s.pc)
  else
    match s.fetchWord with
    | none => s.raise .fetchFault s.pc 0#32
    | some w =>
      match decode w with
      | .error _ => s.raise .decodeFault s.pc w
      | .ok i => mapNext State.restart (run i s)

/-- `w`, `nbits` long, placed where the next step fetches; the word is not counted as stored over, and
the run is not ended. -/
def State.placeWord (s : State) (nbits w : Nat) : State :=
  { s with
    imem := s.imem.writeWord (wordIndex s.pc) (BitVec.ofNat 32 (w % 2 ^ nbits)) 0b1111#4
    stored := s.stored.filter (fun i => i != wordIndex s.pc)
    status := .running }

end Sys2Proof.Machine
end

