-- ==== Sys2Proof/Machine/Arith.lean ====
section
/-! DEFINITION. The 21 computational instructions (41_alu_instructions.md R213–R234). None raises a fault or
writes anything but rd and the pc. -/

namespace Sys2Proof.Machine

/-- `x[rd] <- v`, and the default pc (R213). -/
def State.retire (s : State) (rd : Reg) (v : Word) : Result := .next (s.writeReg rd v).advance

/-- `x[rd] <- ALU(op, x[rs1], x[rs2])`. -/
def aluReg (op : AluOp) (rd rs1 rs2 : Reg) (s : State) : Result :=
  s.retire rd (alu op (s.x rs1) (s.x rs2))

/-- `x[rd] <- ALU(op, x[rs1], imm)`. -/
def aluImm (op : AluOp) (rd rs1 : Reg) (imm : Word) (s : State) : Result :=
  s.retire rd (alu op (s.x rs1) imm)

/-- R214 -/
def execAdd (rd rs1 rs2 : Reg) (s : State) : Result := aluReg .add rd rs1 rs2 s
/-- R215 -/
def execSub (rd rs1 rs2 : Reg) (s : State) : Result := aluReg .sub rd rs1 rs2 s
/-- R216 -/
def execSll (rd rs1 rs2 : Reg) (s : State) : Result := aluReg .sll rd rs1 rs2 s
/-- R217 -/
def execSlt (rd rs1 rs2 : Reg) (s : State) : Result := aluReg .slt rd rs1 rs2 s
/-- R218 -/
def execSltu (rd rs1 rs2 : Reg) (s : State) : Result := aluReg .sltu rd rs1 rs2 s
/-- R219 -/
def execXor (rd rs1 rs2 : Reg) (s : State) : Result := aluReg .xor rd rs1 rs2 s
/-- R220 -/
def execSrl (rd rs1 rs2 : Reg) (s : State) : Result := aluReg .srl rd rs1 rs2 s
/-- R221 -/
def execSra (rd rs1 rs2 : Reg) (s : State) : Result := aluReg .sra rd rs1 rs2 s
/-- R222 -/
def execOr (rd rs1 rs2 : Reg) (s : State) : Result := aluReg .or rd rs1 rs2 s
/-- R223 -/
def execAnd (rd rs1 rs2 : Reg) (s : State) : Result := aluReg .and rd rs1 rs2 s

/-- R224 -/
def execAddi (rd rs1 : Reg) (imm : BitVec 12) (s : State) : Result := aluImm .add rd rs1 (imm12 imm) s
/-- R225 -/
def execSlti (rd rs1 : Reg) (imm : BitVec 12) (s : State) : Result := aluImm .slt rd rs1 (imm12 imm) s
/-- R226: sign-extended first, then compared unsigned -/
def execSltiu (rd rs1 : Reg) (imm : BitVec 12) (s : State) : Result :=
  aluImm .sltu rd rs1 (imm12 imm) s
/-- R227 -/
def execXori (rd rs1 : Reg) (imm : BitVec 12) (s : State) : Result := aluImm .xor rd rs1 (imm12 imm) s
/-- R228 -/
def execOri (rd rs1 : Reg) (imm : BitVec 12) (s : State) : Result := aluImm .or rd rs1 (imm12 imm) s
/-- R229 -/
def execAndi (rd rs1 : Reg) (imm : BitVec 12) (s : State) : Result := aluImm .and rd rs1 (imm12 imm) s
/-- R230, R133 -/
def execSlli (rd rs1 : Reg) (shamt : BitVec 5) (s : State) : Result :=
  aluImm .sll rd rs1 (immShift 0b0000000#7 shamt) s
/-- R231, R133 -/
def execSrli (rd rs1 : Reg) (shamt : BitVec 5) (s : State) : Result :=
  aluImm .srl rd rs1 (immShift 0b0000000#7 shamt) s
/-- R232, R133: the immediate's bit 10 is set and the ALU ignores it -/
def execSrai (rd rs1 : Reg) (shamt : BitVec 5) (s : State) : Result :=
  aluImm .sra rd rs1 (immShift 0b0100000#7 shamt) s

/-- R233: operand 1 is 0 (40_decoder.md R164) -/
def execLui (rd : Reg) (imm : BitVec 20) (s : State) : Result := s.retire rd (alu .add 0#32 (immU imm))
/-- R234: relative to the instruction's own address -/
def execAuipc (rd : Reg) (imm : BitVec 20) (s : State) : Result :=
  s.retire rd (alu .add s.pc (immU imm))

end Sys2Proof.Machine
end

