-- ==== Sys2Proof/Machine/Control.lean ====
section
/-! DEFINITION. Branches and jumps (43_control_transfer.md R280–R294). A misaligned target faults only when the
transfer is made (R284); then no rd is written and the predictor is not trained (R373). -/

namespace Sys2Proof.Machine

/-- A conditional branch `i`: its ALU opcode and flip decide (R280), and a committed one trains the
predictor (R373). -/
def branchWith (op : AluOp) (flip : Bool) (i : Instr) (rs1 rs2 : Reg) (off : BitVec 13) (s : State) :
    Result :=
  let taken := branchTaken (alu op (s.x rs1) (s.x rs2)) flip
  let target := branchTarget s.pc off
  if taken && targetMisaligned target then s.raise .misalignedTarget target (encode i)
  else .next ((s.trainBranch taken).setPc (if taken then target else nextPc s.pc))

/-- A jump `i` whose ALU result is `res` (R281, R284): the link is the fall-through address. -/
def jumpWith (i : Instr) (rd : Reg) (res : Word) (s : State) : Result :=
  let target := jumpTarget res
  if targetMisaligned target then s.raise .misalignedTarget target (encode i)
  else .next ((s.writeReg rd (nextPc s.pc)).setPc target)

/-- R285 -/
def execBeq (rs1 rs2 : Reg) (off : BitVec 13) (s : State) : Result :=
  branchWith .sub true (.beq rs1 rs2 off) rs1 rs2 off s
/-- R286 -/
def execBne (rs1 rs2 : Reg) (off : BitVec 13) (s : State) : Result :=
  branchWith .sub false (.bne rs1 rs2 off) rs1 rs2 off s
/-- R287 -/
def execBlt (rs1 rs2 : Reg) (off : BitVec 13) (s : State) : Result :=
  branchWith .slt false (.blt rs1 rs2 off) rs1 rs2 off s
/-- R288 -/
def execBge (rs1 rs2 : Reg) (off : BitVec 13) (s : State) : Result :=
  branchWith .slt true (.bge rs1 rs2 off) rs1 rs2 off s
/-- R289 -/
def execBltu (rs1 rs2 : Reg) (off : BitVec 13) (s : State) : Result :=
  branchWith .sltu false (.bltu rs1 rs2 off) rs1 rs2 off s
/-- R290 -/
def execBgeu (rs1 rs2 : Reg) (off : BitVec 13) (s : State) : Result :=
  branchWith .sltu true (.bgeu rs1 rs2 off) rs1 rs2 off s
/-- R291 -/
def execJal (rd : Reg) (off : BitVec 21) (s : State) : Result :=
  jumpWith (.jal rd off) rd (alu .add s.pc (immJ off)) s
/-- R292: the target uses the old `x[rs1]` -/
def execJalr (rd rs1 : Reg) (imm : BitVec 12) (s : State) : Result :=
  jumpWith (.jalr rd rs1 imm) rd (alu .add (s.x rs1) (imm12 imm)) s

end Sys2Proof.Machine
end

