-- ==== Sys2Proof/Machine/LoadStore.lean ====
section
/-! DEFINITION. The loads and stores (42_load_store.md R250–R264). Each checks its address first; a failed check
raises its fault and makes no access (R251). -/

namespace Sys2Proof.Machine

/-- A load of kind `k` by the instruction `i` (R250–R252, R254). -/
def loadWith (k : MemKind) (i : Instr) (rd rs1 : Reg) (imm : BitVec 12) (s : State) : Result :=
  let addr := effectiveAddress (s.x rs1) imm
  match accessCheck s.cfg addr k.width with
  | some f => s.raise f addr (encode i)
  | none => .next (s.writeReg rd (s.dmem.load addr k)).advance

/-- A store of kind `k` by the instruction `i` (R250, R251, R253). -/
def storeWith (k : MemKind) (i : Instr) (rs1 rs2 : Reg) (imm : BitVec 12) (s : State) : Result :=
  let addr := effectiveAddress (s.x rs1) imm
  match accessCheck s.cfg addr k.width with
  | some f => s.raise f addr (encode i)
  | none =>
    .next ((s.setDmem (s.dmem.store addr k.width (s.x rs2))).noteStore addr).advance

/-- R256 -/
def execLb (rd rs1 : Reg) (imm : BitVec 12) (s : State) : Result := loadWith .lb (.lb rd rs1 imm) rd rs1 imm s
/-- R257 -/
def execLh (rd rs1 : Reg) (imm : BitVec 12) (s : State) : Result := loadWith .lh (.lh rd rs1 imm) rd rs1 imm s
/-- R258 -/
def execLw (rd rs1 : Reg) (imm : BitVec 12) (s : State) : Result := loadWith .lw (.lw rd rs1 imm) rd rs1 imm s
/-- R259 -/
def execLbu (rd rs1 : Reg) (imm : BitVec 12) (s : State) : Result := loadWith .lbu (.lbu rd rs1 imm) rd rs1 imm s
/-- R260 -/
def execLhu (rd rs1 : Reg) (imm : BitVec 12) (s : State) : Result := loadWith .lhu (.lhu rd rs1 imm) rd rs1 imm s
/-- R261 -/
def execSb (rs1 rs2 : Reg) (imm : BitVec 12) (s : State) : Result := storeWith .sb (.sb rs1 rs2 imm) rs1 rs2 imm s
/-- R262 -/
def execSh (rs1 rs2 : Reg) (imm : BitVec 12) (s : State) : Result := storeWith .sh (.sh rs1 rs2 imm) rs1 rs2 imm s
/-- R263 -/
def execSw (rs1 rs2 : Reg) (imm : BitVec 12) (s : State) : Result := storeWith .sw (.sw rs1 rs2 imm) rs1 rs2 imm s

end Sys2Proof.Machine
end

