-- ==== Sys2Proof/Machine/System.lean ====
section
/-! DEFINITION. The system-halt class (44_system_halt.md R310–R314): ECALL and EBREAK end the run Halted. -/

namespace Sys2Proof.Machine

/-- R311 -/
def execEcall (s : State) : Result := .next s.haltStep
/-- R312: behaves exactly as ECALL -/
def execEbreak (s : State) : Result := .next s.haltStep

end Sys2Proof.Machine
end

