-- ==== Sys2Proof/Machine/Step.lean ====
section
/-! DEFINITION. One step of the sequential machine (41_alu_instructions.md R213, 47_pipeline.md R440): fetch at the
architectural pc, decode, execute. The cycle machine is `tick` (Machine/Pipeline.lean). -/

namespace Sys2Proof.Machine

/-- One instruction; a run that has ended stays as it is (44_system_halt.md R317). -/
def step (s : State) : Host.Outcome State Fault Refusal := s.fetchAndRun exec

/-- `s` with the instruction word `w` stored where `step` fetches next. -/
def State.withFetchWord (s : State) (nbits w : Nat) : State := s.placeWord nbits w

end Sys2Proof.Machine
end

