-- ==== Sys2Proof/Machine/Bundle.lean ====
section
/-! DEFINITION. The decoder's control table: one bundle per instruction (40_decoder.md R163–R167). A field the row
marks not valid is 0 (R163); the halt class sets the forced-stall flag (R167). -/

namespace Sys2Proof.Machine

/-- A register-register row. -/
def bundleReg (op : AluOp) (rd rs1 rs2 : Reg) : Bundle :=
  { Bundle.zero with
    rdValid := true, rd := rd, rs1Valid := true, rs1 := rs1, rs2Valid := true, rs2 := rs2
    alu := op, op1Sel := .src1, op2Sel := .src2 }

/-- A register-immediate row. -/
def bundleImm (op : AluOp) (rd rs1 : Reg) (imm : Word) : Bundle :=
  { Bundle.zero with
    rdValid := true, rd := rd, rs1Valid := true, rs1 := rs1, imm := imm
    alu := op, op1Sel := .src1, op2Sel := .imm }

/-- A load row. -/
def bundleLoad (k : MemKind) (rd rs1 : Reg) (imm : BitVec 12) : Bundle :=
  { bundleImm .add rd rs1 (imm12 imm) with mem := k, wbSrc := .mem }

/-- A store row. -/
def bundleStore (k : MemKind) (rs1 rs2 : Reg) (imm : BitVec 12) : Bundle :=
  { Bundle.zero with
    rs1Valid := true, rs1 := rs1, rs2Valid := true, rs2 := rs2, imm := imm12 imm
    alu := .add, op1Sel := .src1, op2Sel := .imm, mem := k }

/-- A branch row. -/
def bundleBranch (op : AluOp) (flip : Bool) (rs1 rs2 : Reg) (off : BitVec 13) : Bundle :=
  { Bundle.zero with
    rs1Valid := true, rs1 := rs1, rs2Valid := true, rs2 := rs2, imm := immB off
    alu := op, op1Sel := .src1, op2Sel := .src2, isBranch := true, flip := flip }

/-- A halt row. -/
def bundleHalt : Bundle := { Bundle.zero with alu := .add, op1Sel := .src1, op2Sel := .src2, halt := true }

/-- The control table (R165). -/
def Instr.bundle : Instr → Bundle
  | .add rd rs1 rs2 => bundleReg .add rd rs1 rs2
  | .sub rd rs1 rs2 => bundleReg .sub rd rs1 rs2
  | .sll rd rs1 rs2 => bundleReg .sll rd rs1 rs2
  | .slt rd rs1 rs2 => bundleReg .slt rd rs1 rs2
  | .sltu rd rs1 rs2 => bundleReg .sltu rd rs1 rs2
  | .xor rd rs1 rs2 => bundleReg .xor rd rs1 rs2
  | .srl rd rs1 rs2 => bundleReg .srl rd rs1 rs2
  | .sra rd rs1 rs2 => bundleReg .sra rd rs1 rs2
  | .or rd rs1 rs2 => bundleReg .or rd rs1 rs2
  | .and rd rs1 rs2 => bundleReg .and rd rs1 rs2
  | .addi rd rs1 imm => bundleImm .add rd rs1 (imm12 imm)
  | .slti rd rs1 imm => bundleImm .slt rd rs1 (imm12 imm)
  | .sltiu rd rs1 imm => bundleImm .sltu rd rs1 (imm12 imm)
  | .xori rd rs1 imm => bundleImm .xor rd rs1 (imm12 imm)
  | .ori rd rs1 imm => bundleImm .or rd rs1 (imm12 imm)
  | .andi rd rs1 imm => bundleImm .and rd rs1 (imm12 imm)
  | .slli rd rs1 shamt => bundleImm .sll rd rs1 (immShift 0b0000000#7 shamt)
  | .srli rd rs1 shamt => bundleImm .srl rd rs1 (immShift 0b0000000#7 shamt)
  | .srai rd rs1 shamt => bundleImm .sra rd rs1 (immShift 0b0100000#7 shamt)
  | .lb rd rs1 imm => bundleLoad .lb rd rs1 imm
  | .lh rd rs1 imm => bundleLoad .lh rd rs1 imm
  | .lw rd rs1 imm => bundleLoad .lw rd rs1 imm
  | .lbu rd rs1 imm => bundleLoad .lbu rd rs1 imm
  | .lhu rd rs1 imm => bundleLoad .lhu rd rs1 imm
  | .sb rs1 rs2 imm => bundleStore .sb rs1 rs2 imm
  | .sh rs1 rs2 imm => bundleStore .sh rs1 rs2 imm
  | .sw rs1 rs2 imm => bundleStore .sw rs1 rs2 imm
  | .beq rs1 rs2 off => bundleBranch .sub true rs1 rs2 off
  | .bne rs1 rs2 off => bundleBranch .sub false rs1 rs2 off
  | .blt rs1 rs2 off => bundleBranch .slt false rs1 rs2 off
  | .bge rs1 rs2 off => bundleBranch .slt true rs1 rs2 off
  | .bltu rs1 rs2 off => bundleBranch .sltu false rs1 rs2 off
  | .bgeu rs1 rs2 off => bundleBranch .sltu true rs1 rs2 off
  | .jal rd off =>
    { Bundle.zero with
      rdValid := true, rd := rd, imm := immJ off, alu := .add, op1Sel := .pc, op2Sel := .imm
      uncond := true, wbSrc := .pc4 }
  | .jalr rd rs1 imm => { bundleImm .add rd rs1 (imm12 imm) with uncond := true, wbSrc := .pc4 }
  | .lui rd imm =>
    { Bundle.zero with
      rdValid := true, rd := rd, imm := immU imm, alu := .add, op1Sel := .src1, op2Sel := .imm }
  | .auipc rd imm =>
    { Bundle.zero with
      rdValid := true, rd := rd, imm := immU imm, alu := .add, op1Sel := .pc, op2Sel := .imm }
  | .ecall => bundleHalt
  | .ebreak => bundleHalt

/-- The InstructionDecoder: a word to its control bundle, or DecodeFault (R161, R162, R168). -/
def decodeBundle (w : Word) : Option Bundle :=
  match decode w with
  | .ok i => some (Instr.bundle i)
  | .error _ => none

end Sys2Proof.Machine
end

