-- ==== Sys2Proof/Machine/Occupancy.lean ====
section
/-! DEFINITION. The occupancy tracker, the bypass network and the hazard test (45_occupancy_bypass.md R330–R344). -/

namespace Sys2Proof.Machine

/-! ### Entries -/

/-- A valid entry that is not a marker (00_scope.md R15). -/
def Entry.live (s : Entry) : Bool := s.valid && s.fault.isNone

/-- The bundle's destination, none for x0 (R166, R331). -/
def Bundle.dest (c : Bundle) : Option Reg := if c.rdValid && c.rd != 0#5 then some c.rd else none

/-- `dst(s)` of R335: the destination of a live entry. -/
def Entry.dst (s : Entry) : Option Reg := if s.live then s.c.dest else none

/-- A kind only Execute raises (R452); such a marker keeps its bundle and its claim (R332, R407). -/
def FaultKind.fromExecute : FaultKind → Bool
  | .decodeFault | .fetchFault => false
  | .misalignedTarget | .misalignedAccess | .accessOutOfRange => true

/-- An entry that holds a claim on its destination: live, or a marker raised in Execute (R332, R340). -/
def Entry.holdsClaim (s : Entry) : Bool :=
  s.valid && (match s.fault with | none => true | some k => k.fromExecute)

/-- The release target of the entry in W (R332). -/
def Entry.releaseTarget (s : Entry) : Option Reg := if s.holdsClaim then s.c.dest else none

/-! ### The counters -/

/-- `counter(reg)` (R330); x0's counter is pinned at 0 (R334). -/
def Counters.count (cnt : Counters) (r : Reg) : BitVec 2 := if r = 0#5 then 0#2 else cnt[r.toNat]'r.isLt

def Counters.put (cnt : Counters) (r : Reg) (v : BitVec 2) : Counters :=
  if r = 0#5 then cnt else cnt.set r.toNat v r.isLt

/-- A claim that is not cancelled: at 3 it is an overflow (R333, R341). -/
def Counters.claim (cnt : Counters) (r : Reg) : Except Violation Counters :=
  if cnt.count r = 3#2 then .error (.overflow r) else .ok (cnt.put r (cnt.count r + 1#2))

/-- A release that is not cancelled: at 0 it is an underflow (R333, R341). -/
def Counters.release (cnt : Counters) (r : Reg) : Except Violation Counters :=
  if cnt.count r = 0#2 then .error (.underflow r) else .ok (cnt.put r (cnt.count r - 1#2))

/-- `OccupancyCommit(ct, rt)` (R333): a claim and a release of one register cancel out. -/
def occupancyCommit (cnt : Counters) (ct rt : Option Reg) : Except Violation Counters :=
  match ct, rt with
  | none, none => .ok cnt
  | some c, none => cnt.claim c
  | none, some r => cnt.release r
  | some c, some r =>
    if c = r then .ok cnt
    else
      match cnt.claim c with
      | .error v => .error v
      | .ok cnt' => cnt'.release r

/-! ### Forwarding and the hazard test -/

/-- The committed value, by the write-back source (47_pipeline.md R409). -/
def wbValue (w : WriteBackReg) : Word :=
  match w.c.wbSrc with
  | .alu => w.res
  | .mem => loadExtend w.mw w.c.mem (laneOf w.res)
  | .pc4 => nextPc w.pc

/-- The value forwarded from M (R336). -/
def fwdM (m : MemoryReg) : Word := if m.c.wbSrc = .pc4 then nextPc m.pc else m.res

/-- `can_read(r)` (R336, R337): the operand value, or none to wait. -/
def State.canRead (s : State) (r : Reg) : Option Word :=
  if r = 0#5 then some 0#32
  else if s.cnt.count r = 0#2 then some (s.x r)
  else if s.bypass.pendD = some r then none
  else if s.bypass.bypE = some r then (if s.m.c.mem.isLoad then none else some (fwdM s.m))
  else if s.bypass.bypM = some r then some (wbValue s.w)
  else none

/-- A source's resolved value: an invalid source takes no test and is 0 (R164, R338). -/
def State.source (s : State) (valid : Bool) (r : Reg) : Option Word :=
  if valid then s.canRead r else some 0#32

end Sys2Proof.Machine
end

