-- ==== Sys2Proof/Machine/Pipeline.lean ====
section
/-! DEFINITION. The cycle machine: the five stages and the orchestrator's tick (47_pipeline.md R390–R419). Every
stage reads the start-of-cycle state; `State.nextTick` commits every register at once (R390, R12). -/

namespace Sys2Proof.Machine

/-! ### Fetch (R392–R395) -/

/-- The fetch address and whether Fetch fetches (R392). -/
def fetchAddress (f : FetchRegs) : Word × Bool :=
  if f.redirValid then (f.redirTarget, true)
  else if f.halted then (f.pc, false)
  else if f.stall then (f.pc, true)
  else (nextPc f.pc, true)

/-- Fetch's entry `Fd` (R393): out of range it is poisoned, not yet a fault. -/
def fetchEntry (cfg : Config) (imem : Memory) (a : Word) (fetching : Bool) : DecodeReg :=
  if !fetching then .bubble
  else if inRange cfg a then
    { valid := true, pc := a, word := imem.readWord (wordIndex a), poison := false }
  else { valid := true, pc := a, word := 0#32, poison := true }

/-! ### Decode (R396–R401) -/

/-- What Decode does in a cycle: the first column of R413's table. -/
inductive DecodeOut where
  | idle
  | stall
  | marker (e : ExecuteReg)
  | issue (e : ExecuteReg)
  deriving DecidableEq, Repr

/-- The marker entry of R397: an all-zero bundle, so it claims nothing, and no valid source, so `v1` and `v2` are 0
(R41). DESIGN CHOICE (log 10): `pred` is 0; R397 does not list it, and R399 gives it for a legal instruction only. -/
def markerEntry (d : DecodeReg) (k : FaultKind) : ExecuteReg :=
  { valid := true, pc := d.pc, word := d.word, c := .zero, pred := false
    fault := some k, faultAddr := d.pc, v1 := 0#32, v2 := 0#32 }

/-- Issue of a legal word with bundle `c`, or a stall (R398, R399, R339). -/
def State.tryIssue (s : State) (c : Bundle) : DecodeOut :=
  match s.source c.rs1Valid c.rs1, s.source c.rs2Valid c.rs2 with
  | some v1, some v2 =>
    .issue
      { valid := true, pc := s.d.pc, word := s.d.word, c := c
        pred := c.isBranch && predict s.cfg s.ptab s.d.pc
        fault := none, faultAddr := 0#32, v1 := v1, v2 := v2 }
  | _, _ => .stall

/-- The Decode stage (R396–R399): poison is checked before the word (R460). -/
def decodeStage (s : State) : DecodeOut :=
  if !s.d.valid || s.f.halted then .idle
  else if s.d.poison then .marker (markerEntry s.d .fetchFault)
  else
    match decodeBundle s.d.word with
    | none => .marker (markerEntry s.d .decodeFault)
    | some c => s.tryIssue c

/-- A predicted-taken branch steers Fetch to its target (R399). -/
def predictedRedirect (e : ExecuteReg) : Option Word :=
  if e.c.isBranch && e.pred then some (e.pc + e.c.imm) else none

/-! ### Execute (R402–R407) -/

/-- Execute's entry for M and its outcome signals (R407). -/
structure ExecuteOut where
  next    : MemoryReg
  flush   : Option Word
  exfault : Option (FaultKind × Word)
  deriving DecidableEq, Repr

/-- `squash = flush_now OR exfault` (R407). -/
def ExecuteOut.squash (x : ExecuteOut) : Bool := x.flush.isSome || x.exfault.isSome

/-- The redirect and the fault of a live entry whose ALU result is `res` (R404–R406, R282). -/
def executeSignals (cfg : Config) (e : ExecuteReg) (res : Word) : Option Word × Option (FaultKind × Word) :=
  if e.c.isBranch then
    let taken := branchTaken res e.c.flip
    let target := e.pc + e.c.imm
    if taken && targetMisaligned target then (none, some (.misalignedTarget, target))
    else if taken != e.pred then (some (if taken then target else nextPc e.pc), none)
    else (none, none)
  else if e.c.uncond then
    let target := jumpTarget res
    if targetMisaligned target then (none, some (.misalignedTarget, target)) else (some target, none)
  else if e.c.mem = .none then (none, none)
  else
    match accessCheck cfg res e.c.mem.width with
    | some k => (none, some (k, res))
    | none => (none, none)

/-- The Execute stage (R402, R403, R407). -/
def executeStage (cfg : Config) (e : ExecuteReg) : ExecuteOut :=
  if !e.valid then { next := .bubble, flush := none, exfault := none }
  else if e.fault.isSome then
    { next := { toEntry := e.toEntry, res := 0#32, sd := 0#32, act := false }, flush := none, exfault := none }
  else
    let res := alu e.c.alu (operand e e.c.op1Sel) (operand e e.c.op2Sel)
    let sig := executeSignals cfg e res
    { next :=
        { toEntry :=
            { e.toEntry with
              fault := sig.2.map Prod.fst
              faultAddr := match sig.2 with | some (_, a) => a | none => 0#32 }
          res := res
          sd := e.v2
          act := e.c.isBranch && branchTaken res e.c.flip }
      flush := sig.1
      exfault := sig.2 }

/-! ### Memory (R408) -/

/-- M's entry moved to W, with the full word a live load reads, and 0 where R408's last arm says so. DESIGN CHOICE
(log 10): `mw` is 0 for a live store too, to which R408's store arm gives no value. -/
def memoryStage (dmem : Memory) (m : MemoryReg) : WriteBackReg :=
  if !m.valid then .bubble
  else
    { toMemoryReg := m
      mw := if m.live && m.c.mem.isLoad then dmem.readWord (wordIndex m.res) else 0#32 }

/-- Data memory after the Memory stage: only a live store writes (R91, R100). -/
def memoryCommit (dmem : Memory) (m : MemoryReg) : Memory :=
  if m.live && m.c.mem.isStore then dmem.store m.res m.c.mem.width m.sd else dmem

/-! ### WriteBack (R409–R411) -/

/-- The register file after WriteBack (R410, R411). -/
def writeBackRegs (regs : RegFile) (w : WriteBackReg) : RegFile :=
  match w.dst with
  | some r => regs.write r (wbValue w)
  | none => regs

/-- The predictor table after WriteBack (R373, R410). -/
def writeBackPredictor (cfg : Config) (t : PredTable) (w : WriteBackReg) : PredTable :=
  if w.live && w.c.isBranch then updatePredictor cfg t w.pc w.pred w.act else t

/-- The architectural pc after WriteBack (R33, R34, R281): the successor of the committed instruction; a
halt and a marker leave it. -/
def writeBackPc (pc : Word) (w : WriteBackReg) : Word :=
  if !w.live || w.c.halt then pc
  else if w.c.isBranch then (if w.act then w.pc + w.c.imm else nextPc w.pc)
  else if w.c.uncond then jumpTarget w.res
  else nextPc w.pc

/-- The model's record of stored words, at a store's commit (I7). -/
def writeBackStored (stored : List Nat) (w : WriteBackReg) : List Nat :=
  if w.live && w.c.mem.isStore then insertIndex stored (wordIndex w.res) else stored

/-- The report of the entry in W (R461). -/
def WriteBackReg.report (w : WriteBackReg) : Report :=
  { faultAddr := w.faultAddr, pc := w.pc, word := w.word }

/-- How the entry in W ends the run, if it does (R410, R411). -/
def writeBackStatus (w : WriteBackReg) : RunStatus :=
  if !w.valid then .running
  else
    match w.fault with
    | some k => .faulted (k.toFault w.report)
    | none => if w.c.halt then .halted else .running

/-! ### Next-state selection (R412, R413) -/

/-- The registers R412 and R413 select, with the claim target. -/
structure Selection where
  e  : ExecuteReg
  d  : DecodeReg
  f  : FetchRegs
  ct : Option Reg
  deriving DecidableEq, Repr

/-- R412 when Execute squashes, else R413 by Decode's outcome. `a` is the fetch address, which F.pc takes
in every row (R394). A redirect target that no row writes keeps its value (log 7). -/
def selectNext (s : State) (a : Word) (fd : DecodeReg) (x : ExecuteOut) (o : DecodeOut) : Selection :=
  if x.squash then
    { e := .bubble
      d := .bubble
      f := { pc := a
             redirValid := x.flush.isSome
             redirTarget := x.flush.getD s.f.redirTarget
             stall := false
             halted := s.f.halted || x.exfault.isSome }
      ct := none }
  else
    let f : FetchRegs := { s.f with pc := a, redirValid := false, stall := false }
    match o with
    | .idle => { e := .bubble, d := fd, f := f, ct := none }
    | .stall => { e := .bubble, d := s.d, f := { f with stall := true }, ct := none }
    | .marker e => { e := e, d := fd, f := { f with halted := true }, ct := none }
    | .issue e =>
      match predictedRedirect e with
      | some t =>
        { e := e, d := .bubble, f := { f with redirValid := true, redirTarget := t }, ct := e.c.dest }
      | none => { e := e, d := fd, f := { f with halted := s.f.halted || e.c.halt }, ct := e.c.dest }

/-- The selection a state's own stage outputs give. -/
def State.selection (s : State) : Selection :=
  let af := fetchAddress s.f
  selectNext s af.1 (fetchEntry s.cfg s.imem af.1 af.2) (executeStage s.cfg s.e) (decodeStage s)

/-- The assertion that fails in this cycle, if one does (R341, R458). -/
def State.violation (s : State) : Option Violation :=
  if s.f.redirValid && s.f.stall then some .flushAndStall
  else
    match occupancyCommit s.cnt s.selection.ct s.w.releaseTarget with
    | .error v => some v
    | .ok _ => none

/-- The status after the tick: a failed assertion comes before the entry in W (R460). -/
def State.tickStatus (s : State) : RunStatus :=
  match s.violation with
  | some v => .faulted (.hazardViolation v)
  | none => writeBackStatus s.w

/-- One tick (R390): every register's next value, committed at once. A run that has ended does not
change (44_system_halt.md R317). Counters a failed assertion stops keep their values (log 8). -/
def State.nextTick (s : State) : State :=
  if s.status ≠ .running then s
  else
    let sel := s.selection
    let mNext := (executeStage s.cfg s.e).next
    let wNext := memoryStage s.dmem s.m
    { s with
      regs := writeBackRegs s.regs s.w
      pc := writeBackPc s.pc s.w
      dmem := memoryCommit s.dmem s.m
      f := sel.f
      d := sel.d
      e := sel.e
      m := mNext
      w := wNext
      cnt := match occupancyCommit s.cnt sel.ct s.w.releaseTarget with
        | .ok cnt => cnt
        | .error _ => s.cnt
      bypass := { pendD := sel.e.dst, bypE := mNext.dst, bypM := wNext.dst }
      ptab := writeBackPredictor s.cfg s.ptab s.w
      cycle := s.cycle + 1
      status := s.tickStatus
      stored := writeBackStored s.stored s.w }

/-- The committed path's entry in W holds a word a committed store wrote (I7, R103). -/
def State.tickSelfModified (s : State) : Bool :=
  s.w.valid && s.stored.contains (wordIndex s.w.pc)

/-- One tick as a step: a marker in W or a failed assertion is a fault (R411, R458), a self-modified
word is refused, and every other tick, the halt's among them, has a next state. -/
def tick (s : State) : Result :=
  if s.status ≠ .running then .next s
  else if s.tickSelfModified then .refused (.selfModifying s.w.pc)
  else
    match s.tickStatus with
    | .faulted f => .fault f
    | .running | .halted => .next s.nextTick

/-- The cycle machine in the host's form: its step is one tick (R50, R471). -/
def cycleCore : Host.Core :=
  { State := State, Fault := Fault, Refusal := Refusal, step := tick, reset := State.reset }

end Sys2Proof.Machine
end

