-- ==== Sys2Proof/Machine/Run.lean ====
section
/-! DEFINITION. The run interface the core offers its harness (60_exceptions.md R451, R459, R470–R475) and the
state before cycle 0 (20_memory.md R86). -/

namespace Sys2Proof.Machine

/-! ### Loading (R86, R470) -/

/-- The memory holding the given words from word index `i` upward. -/
def loadWords : List Word → Nat → Memory → Memory
  | [], _, m => m
  | w :: ws, i, m => loadWords ws (i + 1) (m.writeWord i w 0b1111#4)

/-- The state before cycle 0 (R86, R470, R490): IMAGE from word 0 in both instances, then the drawn
contents `drawn` of the words it does not cover, cut at MEM_WORDS. -/
def boot (cfg : Config) (image drawn : List Word) : Result :=
  if !cfg.wf then .refused .badParameters
  else if cfg.memWords < image.length then .refused (.imageTooLong image.length)
  else
    let mem := loadWords ((image ++ drawn).take cfg.memWords) 0 []
    .next { State.resetWith cfg with imem := mem, dmem := mem }

/-! ### Trace (R472) -/

structure TraceRecord where
  cycle : Nat
  pc    : Word
  word  : Word
  rd    : Option Reg
  value : Option Word
  regs  : RegFile
  deriving DecidableEq, Repr

/-- The record of the tick that starts in `s`: one for a live entry in W, none for a bubble or a marker,
and none once the run has ended (R317, R411). -/
def State.traceRecord (s : State) : Option TraceRecord :=
  if s.status = .running && s.w.live then
    some
      { cycle := s.cycle
        pc := s.w.pc
        word := s.w.word
        rd := s.w.c.dest
        value := s.w.c.dest.map (fun _ => wbValue s.w)
        regs := writeBackRegs s.regs s.w }
  else none

/-- `step()` of the run interface (R471): one tick, its record, and whether the tick ended the run. A
self-modified word is refused (I7); a run that has ended gives no record and does not change (R317). -/
def harnessStep (s : State) : Except Refusal (State × Option TraceRecord × RunStatus) :=
  if s.status = .running && s.tickSelfModified then .error (.selfModifying s.w.pc)
  else .ok (s.nextTick, s.traceRecord, s.nextTick.status)

/-! ### Runs (R451, R459) -/

/-- Why a run returned (R451). -/
inductive Reason where
  | halted
  | cycleBudgetExceeded
  | fault (f : Fault)
  deriving DecidableEq, Repr

/-- The reason's code in R451's table. -/
def Reason.code : Reason → Nat
  | .halted => 0
  | .cycleBudgetExceeded => 1
  | .fault (.decodeFault _) => 2
  | .fault (.hazardViolation _) => 3
  | .fault (.fetchFault _) => 4
  | .fault (.misalignedTarget _) => 5
  | .fault (.misalignedAccess _) => 6
  | .fault (.accessOutOfRange _) => 7

/-- `run(max_cycles)` (R459, R471): at most that many ticks; the state is left as the last tick committed
it, so a run the budget stopped can go on. A self-modified word is refused (I7). -/
def run : Nat → State → Except Refusal (State × Reason)
  | n, s =>
    match s.status with
    | .halted => .ok (s, .halted)
    | .faulted f => .ok (s, .fault f)
    | .running =>
      match n with
      | 0 => .ok (s, .cycleBudgetExceeded)
      | n + 1 =>
        if s.tickSelfModified then .error (.selfModifying s.w.pc) else run n s.nextTick

end Sys2Proof.Machine
end

