-- ==== Sys2Proof/Safety.lean ====
section
/-! DEFINITION. What counts as a safe run, in the terms statements use: the sequential machine's invariant, and the
coherence of the cycle machine's registers with each other and with the sequential path. -/

namespace Sys2Proof.Machine

/-! ### The sequential machine's invariant -/

/-- A rising list of word indices below `n`. -/
def risingBelow (n : Nat) : List Nat → Bool
  | [] => true
  | i :: t => decide (i < n) && t.all (fun j => decide (i < j)) && risingBelow n t

/-- The parameters are legal, and both memory instances, the predictor table and the record of stored
words are in canonical form and inside their ranges (R83, R86, R374). -/
def State.memoriesOk (s : State) : Bool :=
  s.cfg.wf
    && s.imem.wf && sparseBelow (4 * s.cfg.memWords) s.imem
    && s.dmem.wf && sparseBelow (4 * s.cfg.memWords) s.dmem
    && sparseWf predReset s.ptab && sparseBelow (2 ^ s.cfg.predBits) s.ptab
    && risingBelow s.cfg.memWords s.stored

/-- The architectural `pc` is a multiple of 4 (R34). -/
def State.pcAligned (s : State) : Bool := decide (s.pc.toNat % 4 = 0)

/-- x0's slot of the register file and its counter hold 0 (R30, R334). -/
def State.zeroPinned (s : State) : Bool := decide (s.regs[0] = 0#32) && decide (s.cnt[0] = 0#2)

/-- The invariant of the sequential machine. -/
def State.inv (s : State) : Bool := s.memoriesOk && s.pcAligned && s.zeroPinned

/-- The pipeline is empty and Fetch is steered to the architectural pc, as after reset (R490, R491). -/
def State.drained (s : State) : Bool := decide (s = s.restart)

/-! ### Coherence of the pipeline's registers -/

/-- One if the entry holds a claim on `r` (R340). -/
def Entry.claims (s : Entry) (r : Reg) : Nat := if s.releaseTarget = some r then 1 else 0

/-- The counter invariant (R340). -/
def State.countersOk (s : State) : Bool :=
  (List.finRange 32).all fun i =>
    let r := BitVec.ofFin (w := 5) i
    decide ((s.cnt.count r).toNat = s.e.claims r + s.m.claims r + s.w.claims r)

/-- The bypass record is the one its definition gives (R335). -/
def State.bypassOk (s : State) : Bool :=
  decide (s.bypass = { pendD := s.e.dst, bypE := s.m.dst, bypM := s.w.dst })

/-- A valid entry's bundle is its word's, or the all-zero one of a decode or fetch marker (R397, R407), whose
prediction is 0 (DESIGN CHOICE, log 10). -/
def Entry.bundleOk (s : Entry) : Bool :=
  !s.valid ||
    (if s.holdsClaim then decide (decodeBundle s.word = some s.c)
     else decide (s.c = Bundle.zero) && !s.pred)

/-- The word came from instruction memory at the entry's address, or the address is outside it (R393). -/
def Entry.wordOk (s : Entry) (cfg : Config) (imem : Memory) : Bool :=
  !s.valid ||
    (if s.fault = some .fetchFault then decide (s.word = 0#32) && !inRange cfg s.pc && decide (s.faultAddr = s.pc)
     else
      inRange cfg s.pc && decide (s.word = imem.readWord (wordIndex s.pc))
        && (!decide (s.fault = some .decodeFault)
            || (decide (decodeBundle s.word = none) && decide (s.faultAddr = s.pc))))

/-- The entry ends the run when it reaches WriteBack: a marker or a halt (R410, R411). -/
def Entry.terminal (s : Entry) : Bool := s.valid && (s.fault.isSome || s.c.halt)

/-- `F.halted` is set exactly when a terminating entry is in flight; nothing younger than that entry is,
and no redirect is pending (R418). -/
def State.haltOk (s : State) : Bool :=
  (s.f.halted == (s.e.terminal || s.m.terminal || s.w.terminal))
    && (!s.m.terminal || !s.e.valid)
    && (!s.w.terminal || (!s.e.valid && !s.m.valid))
    && (!s.f.halted || !s.f.redirValid)

/-- Fetch, D and the stall latch agree: never a redirect with a stall (R417), D is empty exactly while a
redirect is pending, and F.pc is D's address or, while stalled, the one after it (R394, R415). -/
def State.fetchOk (s : State) : Bool :=
  !(s.f.redirValid && s.f.stall)
    && (s.f.halted ||
        ((s.d.valid == !s.f.redirValid)
          && (!s.d.valid || decide (s.f.pc = if s.f.stall then nextPc s.d.pc else s.d.pc))))
    && (!s.d.valid ||
        (if s.d.poison then !inRange s.cfg s.d.pc && decide (s.d.word = 0#32)
         else inRange s.cfg s.d.pc && decide (s.d.word = s.imem.readWord (wordIndex s.d.pc))))

/-- The registers hold each other consistently. -/
def State.registersOk (s : State) : Bool :=
  s.countersOk && s.bypassOk
    && s.e.bundleOk && s.m.bundleOk && s.w.bundleOk
    && s.e.wordOk s.cfg s.imem && s.m.wordOk s.cfg s.imem && s.w.wordOk s.cfg s.imem
    && (s.e.fault.all fun k => !k.fromExecute)
    && s.haltOk && s.fetchOk

/-! ### The sequential path through the pipeline

The three entries in flight and D lie on the sequential path from the architectural pc, and carry the
values the sequential machine would compute (R441, R342). -/

/-- `x[r]` of a register file. -/
def RegFile.read (regs : RegFile) (r : Reg) : Word := if r = 0#5 then 0#32 else regs[r.toNat]'r.isLt

/-- The entry Decode would issue for `s`'s instruction with every older write committed to `regs`. -/
def Entry.issuedFrom (s : Entry) (regs : RegFile) : ExecuteReg :=
  { s with
    v1 := if s.c.rs1Valid then regs.read s.c.rs1 else 0#32
    v2 := if s.c.rs2Valid then regs.read s.c.rs2 else 0#32
    fault := match s.fault with | some k => if k.fromExecute then none else some k | none => none
    faultAddr := match s.fault with | some k => if k.fromExecute then 0#32 else s.faultAddr | none => s.faultAddr }

/-- The register file after W commits, and after M commits behind it. -/
def State.regsAfterW (s : State) : RegFile := writeBackRegs s.regs s.w
def State.regsAfterM (s : State) : RegFile := writeBackRegs s.regsAfterW (memoryStage s.dmem s.m)

/-- The architectural pc after W commits, and after M commits behind it. -/
def State.pcAfterW (s : State) : Word := writeBackPc s.pc s.w
def State.pcAfterM (s : State) : Word := writeBackPc s.pcAfterW (memoryStage s.dmem s.m)

/-- Where Fetch is steered behind the entry in E: by its prediction (R399, R281). -/
def ExecuteReg.predictedNext (e : ExecuteReg) : Word :=
  if e.c.isBranch && e.pred then e.pc + e.c.imm else nextPc e.pc

/-- W is what Execute and Memory make of its instruction on the committed registers; a store in W has
already written data memory (R84). -/
def State.wOnPath (s : State) : Bool :=
  !s.w.valid ||
    (decide (s.w.pc = s.pc)
      && decide (s.w = memoryStage s.dmem (executeStage s.cfg (s.w.toEntry.issuedFrom s.regs)).next)
      && decide (memoryCommit s.dmem s.w.toMemoryReg = s.dmem))

/-- M likewise, behind W. -/
def State.mOnPath (s : State) : Bool :=
  !s.m.valid ||
    (decide (s.m.pc = s.pcAfterW)
      && decide (s.m = (executeStage s.cfg (s.m.toEntry.issuedFrom s.regsAfterW)).next))

/-- E likewise, behind M: its operands are the ones the sequential machine reads (R342). -/
def State.eOnPath (s : State) : Bool :=
  !s.e.valid ||
    (decide (s.e.pc = s.pcAfterM) && decide (s.e = s.e.toEntry.issuedFrom s.regsAfterM))

/-- The next address Decode will see: E's predicted successor, or the architectural successor of what
is in flight. -/
def State.dOnPath (s : State) : Bool :=
  s.f.halted ||
    decide ((if s.f.redirValid then s.f.redirTarget else s.d.pc)
      = if s.e.valid then s.e.predictedNext else s.pcAfterM)

/-- The cycle machine's invariant. -/
def State.coherent (s : State) : Bool :=
  s.memoriesOk && s.pcAligned && s.zeroPinned && s.registersOk
    && s.wOnPath && s.mOnPath && s.eOnPath && s.dOnPath

end Sys2Proof.Machine
end

