-- ==== Sys2Proof/Certificates/Slice0/Obligations.lean ====
section
/-! DEFINITION. The statements for the provers. `Sys2Proof.Spec` holds the vocabulary they share: results in integer
arithmetic, bytes by address, and the frames. -/

namespace Sys2Proof.Spec

open Sys2Proof.Machine

/-! ### Vocabulary -/

/-- `ALU(op, a, b)` in integer arithmetic (R201–R211). -/
def aluValue : AluOp → Word → Word → Word
  | .add, a, b => BitVec.ofNat 32 (a.toNat + b.toNat)
  | .sub, a, b => BitVec.ofInt 32 ((a.toNat : Int) - b.toNat)
  | .sll, a, b => BitVec.ofNat 32 (a.toNat * 2 ^ (b.toNat % 32))
  | .slt, a, b => if a.toInt < b.toInt then 1 else 0
  | .sltu, a, b => if a.toNat < b.toNat then 1 else 0
  | .xor, a, b => BitVec.ofNat 32 (a.toNat ^^^ b.toNat)
  | .sra, a, b => BitVec.ofInt 32 (Int.fdiv a.toInt (2 ^ (b.toNat % 32)))
  | .srl, a, b => BitVec.ofNat 32 (a.toNat / 2 ^ (b.toNat % 32))
  | .or, a, b => BitVec.ofNat 32 (a.toNat ||| b.toNat)
  | .and, a, b => BitVec.ofNat 32 (a.toNat &&& b.toNat)

/-- A field, sign-extended: `u32` of its two's-complement reading (R12). -/
def sext {n : Nat} (v : BitVec n) : Word := BitVec.ofInt 32 v.toInt

/-- What a load of kind `k` at byte address `a` commits, from the bytes at `a`, `a+1`, … (R87, R90, R252). -/
def loadValue (m : Memory) (k : MemKind) (a : Nat) : Word :=
  match k with
  | .lb => sext (m.byte a)
  | .lbu => BitVec.ofNat 32 (m.byte a).toNat
  | .lh => sext (m.byte (a + 1) ++ m.byte a)
  | .lhu => BitVec.ofNat 32 (m.byte (a + 1) ++ m.byte a).toNat
  | _ => m.byte (a + 3) ++ m.byte (a + 2) ++ m.byte (a + 1) ++ m.byte a

/-- `t` is `s` with `x[rd] <- v`, every other register kept; a write to x0 is dropped (R30). -/
def wroteReg (s t : State) (rd : Reg) (v : Word) : Prop :=
  ∀ r : Reg, t.x r = if r = rd ∧ r ≠ 0#5 then v else s.x r

/-- No register changes. -/
def regsKept (s t : State) : Prop := ∀ r : Reg, t.x r = s.x r

/-- `pc <- u32(pc + 4)`. -/
def fellThrough (s t : State) : Prop := t.pc = BitVec.ofNat 32 (s.pc.toNat + 4)

/-- Every byte of data memory reads as before, and no word is newly stored over. -/
def dataKept (s t : State) : Prop :=
  (∀ a, t.dmem.byte a = s.dmem.byte a) ∧ t.dmem = s.dmem ∧ t.stored = s.stored

/-- Everything else but the predictor table, the Fetch fields and the status: parameters, instruction
memory, stage registers, counters, bypass record and cycle count. -/
def microKept (s t : State) : Prop :=
  t.cfg = s.cfg ∧ (∀ a, t.imem.byte a = s.imem.byte a) ∧ t.imem = s.imem ∧ t.d = s.d ∧ t.e = s.e
    ∧ t.m = s.m ∧ t.w = s.w ∧ t.cnt = s.cnt ∧ t.bypass = s.bypass ∧ t.cycle = s.cycle

/-- What an instruction other than a branch or a halt keeps. -/
def coreKept (s t : State) : Prop :=
  microKept s t ∧ t.ptab = s.ptab ∧ t.f = s.f ∧ t.status = s.status

/-- The architectural part of two states agrees, data memory apart. -/
def sameArch (t u : State) : Prop :=
  t.regs = u.regs ∧ t.pc = u.pc ∧ t.ptab = u.ptab ∧ t.stored = u.stored ∧ t.status = u.status

/-- `n` ticks. -/
def ticks (n : Nat) (s : State) : Result := Host.Core.run cycleCore n s

/-- `n` sequential steps. -/
def steps (n : Nat) (s : State) : Result := Host.Core.run Sys2Proof.core n s

/-! ### The forms of each family -/

/-- An OP instruction, its ALU opcode, funct7 and funct3 (R135, R214–R223). -/
def opForms (rd rs1 rs2 : Reg) : List (Instr × AluOp × BitVec 7 × BitVec 3) :=
  [(.add rd rs1 rs2, .add, 0b0000000, 0b000), (.sub rd rs1 rs2, .sub, 0b0100000, 0b000),
   (.sll rd rs1 rs2, .sll, 0b0000000, 0b001), (.slt rd rs1 rs2, .slt, 0b0000000, 0b010),
   (.sltu rd rs1 rs2, .sltu, 0b0000000, 0b011), (.xor rd rs1 rs2, .xor, 0b0000000, 0b100),
   (.srl rd rs1 rs2, .srl, 0b0000000, 0b101), (.sra rd rs1 rs2, .sra, 0b0100000, 0b101),
   (.or rd rs1 rs2, .or, 0b0000000, 0b110), (.and rd rs1 rs2, .and, 0b0000000, 0b111)]

/-- An OP-IMM instruction with a 12-bit immediate, its ALU opcode and funct3 (R136, R224–R229). -/
def immForms (rd rs1 : Reg) (imm : BitVec 12) : List (Instr × AluOp × BitVec 3) :=
  [(.addi rd rs1 imm, .add, 0b000), (.slti rd rs1 imm, .slt, 0b010), (.sltiu rd rs1 imm, .sltu, 0b011),
   (.xori rd rs1 imm, .xor, 0b100), (.ori rd rs1 imm, .or, 0b110), (.andi rd rs1 imm, .and, 0b111)]

/-- A shift-immediate instruction, its ALU opcode, funct7 and funct3 (R136, R230–R232). -/
def shiftForms (rd rs1 : Reg) (shamt : BitVec 5) : List (Instr × AluOp × BitVec 7 × BitVec 3) :=
  [(.slli rd rs1 shamt, .sll, 0b0000000, 0b001), (.srli rd rs1 shamt, .srl, 0b0000000, 0b101),
   (.srai rd rs1 shamt, .sra, 0b0100000, 0b101)]

/-- A load, its kind, width and funct3 (R137, R256–R260). -/
def loadForms (rd rs1 : Reg) (imm : BitVec 12) : List (Instr × MemKind × Nat × BitVec 3) :=
  [(.lb rd rs1 imm, .lb, 1, 0b000), (.lh rd rs1 imm, .lh, 2, 0b001), (.lw rd rs1 imm, .lw, 4, 0b010),
   (.lbu rd rs1 imm, .lbu, 1, 0b100), (.lhu rd rs1 imm, .lhu, 2, 0b101)]

/-- A store, its kind, width and funct3 (R138, R261–R263). -/
def storeForms (rs1 rs2 : Reg) (imm : BitVec 12) : List (Instr × MemKind × Nat × BitVec 3) :=
  [(.sb rs1 rs2 imm, .sb, 1, 0b000), (.sh rs1 rs2 imm, .sh, 2, 0b001), (.sw rs1 rs2 imm, .sw, 4, 0b010)]

/-- A branch, whether it is taken on these register values, its funct3, ALU opcode and flip (R139, R280,
R285–R290). -/
def branchForms (s : State) (rs1 rs2 : Reg) (off : BitVec 13) :
    List (Instr × Bool × BitVec 3 × AluOp × Bool) :=
  [(.beq rs1 rs2 off, decide (s.x rs1 = s.x rs2), 0b000, .sub, true),
   (.bne rs1 rs2 off, decide (s.x rs1 ≠ s.x rs2), 0b001, .sub, false),
   (.blt rs1 rs2 off, decide ((s.x rs1).toInt < (s.x rs2).toInt), 0b100, .slt, false),
   (.bge rs1 rs2 off, decide ((s.x rs2).toInt ≤ (s.x rs1).toInt), 0b101, .slt, true),
   (.bltu rs1 rs2 off, decide ((s.x rs1).toNat < (s.x rs2).toNat), 0b110, .sltu, false),
   (.bgeu rs1 rs2 off, decide ((s.x rs2).toNat ≤ (s.x rs1).toNat), 0b111, .sltu, true)]

/-- A committed branch's effect on the predictor table: only the adaptive policy's entry at the low
PRED_BITS bits of the pc moves, one level toward the outcome, saturating at 0 and 3 (R373, R376, R377). -/
def trained (s t : State) (taken : Bool) : Prop :=
  ∀ j, (t.ptab.level j).toNat =
    if s.cfg.predictor = .adaptive ∧ j = s.pc.toNat % 2 ^ s.cfg.predBits then
      (if taken then min 3 ((s.ptab.level j).toNat + 1) else (s.ptab.level j).toNat - 1)
    else (s.ptab.level j).toNat

end Sys2Proof.Spec

open Sys2Proof Sys2Proof.Machine Sys2Proof.Spec

/-! ### The ALU and the computational instructions -/

/-- R201–R211: the ten ALU operations in integer arithmetic, shift amounts the low 5 bits. -/
def Obligations.AluComputesIntegerResults : Prop :=
  ∀ (op : AluOp) (a b : Word), alu op a b = aluValue op a b

/-- R214–R223: each OP instruction executes, for every state and operands, rd = 0 included. -/
def Obligations.RegisterRegisterInstructionsExecute : Prop :=
  ∀ (s : State) (rd rs1 rs2 : Reg), ∀ p ∈ opForms rd rs1 rs2,
    (opcodeOf (encode p.1) = 0b0110011#7 ∧ funct7Of (encode p.1) = p.2.2.1
      ∧ funct3Of (encode p.1) = p.2.2.2 ∧ rdOf (encode p.1) = rd ∧ rs1Of (encode p.1) = rs1
      ∧ rs2Of (encode p.1) = rs2)
    ∧ ∃ t, exec p.1 s = .next t ∧ wroteReg s t rd (aluValue p.2.1 (s.x rs1) (s.x rs2))
      ∧ fellThrough s t ∧ dataKept s t ∧ coreKept s t

/-- R224–R229: each OP-IMM instruction with a 12-bit immediate executes on its sign-extended value, and
claims its destination, none for x0 (R166). -/
def Obligations.RegisterImmediateInstructionsExecute : Prop :=
  ∀ (s : State) (rd rs1 : Reg) (imm : BitVec 12), ∀ p ∈ immForms rd rs1 imm,
    (opcodeOf (encode p.1) = 0b0010011#7 ∧ funct3Of (encode p.1) = p.2.2 ∧ rdOf (encode p.1) = rd
      ∧ rs1Of (encode p.1) = rs1 ∧ bits (encode p.1) 20 12 = imm
      ∧ (Instr.bundle p.1).dest = if rd = 0#5 then none else some rd)
    ∧ ∃ t, exec p.1 s = .next t ∧ wroteReg s t rd (aluValue p.2.1 (s.x rs1) (sext imm))
      ∧ fellThrough s t ∧ dataKept s t ∧ coreKept s t

/-- R230–R232: SLLI, SRLI and SRAI execute, shifting by `shamt = w[24:20]`; a shift word with any other
`w[31:25]` is no instruction. -/
def Obligations.ShiftImmediateInstructionsExecute : Prop :=
  (∀ w : Word, opcodeOf w = 0b0010011#7 →
    (funct3Of w = 0b001#3 ∧ bits w 25 7 ≠ 0b0000000#7
      ∨ funct3Of w = 0b101#3 ∧ bits w 25 7 ≠ 0b0000000#7 ∧ bits w 25 7 ≠ 0b0100000#7) →
    decode w = .error (.noMatch w))
  ∧ ∀ (s : State) (rd rs1 : Reg) (shamt : BitVec 5), ∀ p ∈ shiftForms rd rs1 shamt,
    (opcodeOf (encode p.1) = 0b0010011#7 ∧ bits (encode p.1) 25 7 = p.2.2.1
      ∧ funct3Of (encode p.1) = p.2.2.2 ∧ rdOf (encode p.1) = rd ∧ rs1Of (encode p.1) = rs1
      ∧ bits (encode p.1) 20 5 = shamt)
    ∧ ∃ t, exec p.1 s = .next t
      ∧ wroteReg s t rd (aluValue p.2.1 (s.x rs1) (BitVec.ofNat 32 shamt.toNat))
      ∧ fellThrough s t ∧ dataKept s t ∧ coreKept s t

/-- R233, R234: LUI writes imm_U, AUIPC the sum of its own address and imm_U; their control rows have no
valid source, so neither waits. -/
def Obligations.UpperImmediateInstructionsExecute : Prop :=
  ∀ (s : State) (rd : Reg) (imm : BitVec 20),
    (opcodeOf (encode (.lui rd imm)) = 0b0110111#7 ∧ opcodeOf (encode (.auipc rd imm)) = 0b0010111#7
      ∧ bits (encode (.lui rd imm)) 12 20 = imm ∧ bits (encode (.auipc rd imm)) 12 20 = imm
      ∧ rdOf (encode (.lui rd imm)) = rd ∧ rdOf (encode (.auipc rd imm)) = rd)
    ∧ (let row : Bundle :=
        { Bundle.zero with
          rdValid := true, rd := rd, imm := BitVec.ofNat 32 (imm.toNat * 4096), alu := .add, op2Sel := .imm
          wbSrc := .alu }
      Instr.bundle (.lui rd imm) = { row with op1Sel := .src1 }
        ∧ Instr.bundle (.auipc rd imm) = { row with op1Sel := .pc })
    ∧ (∃ t, exec (.lui rd imm) s = .next t ∧ wroteReg s t rd (BitVec.ofNat 32 (imm.toNat * 4096))
      ∧ fellThrough s t ∧ dataKept s t ∧ coreKept s t)
    ∧ ∃ t, exec (.auipc rd imm) s = .next t
      ∧ wroteReg s t rd (BitVec.ofNat 32 (s.pc.toNat + imm.toNat * 4096))
      ∧ fellThrough s t ∧ dataKept s t ∧ coreKept s t

/-- R144: an instruction that computes into x0 changes nothing but the pc. -/
def Obligations.HintsOnlyAdvanceThePc : Prop :=
  ∀ (s : State) (rs1 rs2 : Reg) (imm : BitVec 12) (shamt : BitVec 5) (u : BitVec 20) (i : Instr),
    i ∈ (opForms 0 rs1 rs2).map Prod.fst ++ (immForms 0 rs1 imm).map Prod.fst
      ++ (shiftForms 0 rs1 shamt).map Prod.fst ++ [.lui 0 u, .auipc 0 u] →
    exec i s = .next { s with pc := BitVec.ofNat 32 (s.pc.toNat + 4) }

/-! ### Loads and stores -/

/-- R256–R260 with R251's check: an aligned address inside data memory loads its bytes, extended, into
rd and changes nothing else; a misaligned address faults first, an aligned one outside faults next, each
reporting the address, the pc and the word. -/
def Obligations.LoadsReadOrFault : Prop :=
  ∀ (s : State) (rd rs1 : Reg) (imm : BitVec 12), ∀ p ∈ loadForms rd rs1 imm,
    let a := effectiveAddress (s.x rs1) imm
    let report : Report := { faultAddr := a, pc := s.pc, word := encode p.1 }
    a = BitVec.ofInt 32 ((s.x rs1).toNat + imm.toInt)
    ∧ (opcodeOf (encode p.1) = 0b0000011#7 ∧ funct3Of (encode p.1) = p.2.2.2 ∧ rdOf (encode p.1) = rd
      ∧ rs1Of (encode p.1) = rs1 ∧ bits (encode p.1) 20 12 = imm ∧ (Instr.bundle p.1).mem = p.2.1)
    ∧ (a.toNat % p.2.2.1 = 0 → a.toNat < 4 * s.cfg.memWords →
        ∃ t, exec p.1 s = .next t ∧ wroteReg s t rd (loadValue s.dmem p.2.1 a.toNat)
          ∧ fellThrough s t ∧ dataKept s t ∧ coreKept s t)
    ∧ (a.toNat % p.2.2.1 ≠ 0 → exec p.1 s = .fault (.misalignedAccess report))
    ∧ (a.toNat % p.2.2.1 = 0 → 4 * s.cfg.memWords ≤ a.toNat →
        exec p.1 s = .fault (.accessOutOfRange report))

/-- R261–R263 with R251's check: an aligned address inside data memory takes the low bytes of x[rs2], and
every other byte and every register is kept; otherwise the store faults and, having no next state, writes
nothing. Premise: data memory is canonical. -/
def Obligations.StoresWriteOrFault : Prop :=
  ∀ (s : State) (rs1 rs2 : Reg) (imm : BitVec 12), s.dmem.wf = true → ∀ p ∈ storeForms rs1 rs2 imm,
    let a := effectiveAddress (s.x rs1) imm
    let report : Report := { faultAddr := a, pc := s.pc, word := encode p.1 }
    a = BitVec.ofInt 32 ((s.x rs1).toNat + imm.toInt)
    ∧ (opcodeOf (encode p.1) = 0b0100011#7 ∧ funct3Of (encode p.1) = p.2.2.2 ∧ rs1Of (encode p.1) = rs1
      ∧ rs2Of (encode p.1) = rs2 ∧ bits (encode p.1) 25 7 ++ bits (encode p.1) 7 5 = imm
      ∧ (Instr.bundle p.1).mem = p.2.1)
    ∧ (a.toNat % p.2.2.1 = 0 → a.toNat < 4 * s.cfg.memWords →
        ∃ t, exec p.1 s = .next t ∧ regsKept s t ∧ fellThrough s t ∧ coreKept s t
          ∧ (∀ b, t.dmem.byte b =
              if a.toNat ≤ b ∧ b < a.toNat + p.2.2.1 then byteLane (s.x rs2) (b - a.toNat)
              else s.dmem.byte b))
    ∧ (a.toNat % p.2.2.1 ≠ 0 → exec p.1 s = .fault (.misalignedAccess report))
    ∧ (a.toNat % p.2.2.1 = 0 → 4 * s.cfg.memWords ≤ a.toNat →
        exec p.1 s = .fault (.accessOutOfRange report))

/-- The model's own record of stored words (log 4; for the refusal of R103, R496): an instruction adds the
word a store writes, and nothing else changes it. -/
def Obligations.StoredWordsAreRemembered : Prop :=
  ∀ (s t : State) (i : Instr), exec i s = .next t →
    ∀ j, j ∈ t.stored ↔
      j ∈ s.stored ∨ ∃ rs1 rs2 imm, i ∈ (storeForms rs1 rs2 imm).map Prod.fst
        ∧ j = (effectiveAddress (s.x rs1) imm).toNat / 4

/-- R89: the word 0x12345678 stored at an aligned address is seen through its bytes and halfwords. -/
def Obligations.MixedWidthViewsOfAWord : Prop :=
  ∀ (m : Memory) (a : Word), m.wf = true → a.toNat % 4 = 0 →
    let m' := m.store a 4 0x12345678#32
    m'.load a .lbu = 0x78#32 ∧ m'.load (a + 1#32) .lbu = 0x56#32 ∧ m'.load (a + 2#32) .lbu = 0x34#32
      ∧ m'.load (a + 3#32) .lbu = 0x12#32 ∧ m'.load a .lhu = 0x5678#32
      ∧ m'.load (a + 2#32) .lhu = 0x1234#32

/-- R99, R264: a load of the word a store just wrote reads the stored value, from a canonical memory. -/
def Obligations.LoadAfterStoreReadsTheStoredWord : Prop :=
  ∀ (s t u : State) (rd rs1 rs2 : Reg) (imm : BitVec 12), s.dmem.wf = true →
    exec (.sw rs1 rs2 imm) s = .next t → exec (.lw rd rs1 imm) t = .next u → rd ≠ 0#5 →
    u.x rd = s.x rs2

/-! ### Control transfer and the halt -/

/-- R285–R290, R284: a branch compares as its rule says; taken to an aligned target or not taken it
completes and changes nothing but the pc and the predictor table; taken to a misaligned target it faults. The
clause `trained` is the sequential machine's own deduction (log 11, DEDUCED) from R373, R376 and R377. -/
def Obligations.BranchesTransferOrFault : Prop :=
  ∀ (s : State) (rs1 rs2 : Reg) (off : BitVec 13), ∀ p ∈ branchForms s rs1 rs2 off,
    let target := BitVec.ofInt 32 (s.pc.toNat + off.toInt)
    (opcodeOf (encode p.1) = 0b1100011#7 ∧ funct3Of (encode p.1) = p.2.2.1 ∧ rs1Of (encode p.1) = rs1
      ∧ rs2Of (encode p.1) = rs2 ∧ (p.1.wf = true → offBOf (encode p.1) = off)
      ∧ (Instr.bundle p.1).alu = p.2.2.2.1 ∧ (Instr.bundle p.1).flip = p.2.2.2.2)
    ∧ (¬ (p.2.1 = true ∧ target.toNat % 4 ≠ 0) →
        ∃ t, exec p.1 s = .next t
          ∧ t.pc = (if p.2.1 then target else BitVec.ofNat 32 (s.pc.toNat + 4))
          ∧ regsKept s t ∧ dataKept s t ∧ microKept s t ∧ t.f = s.f ∧ t.status = s.status
          ∧ (sparseWf predReset s.ptab = true → trained s t p.2.1))
    ∧ (p.2.1 = true → target.toNat % 4 ≠ 0 →
        exec p.1 s = .fault (.misalignedTarget { faultAddr := target, pc := s.pc, word := encode p.1 }))

/-- R291, R292: JAL and JALR link the fall-through address and jump, JALR with bit 0 of its sum cleared
and from the old x[rs1]; a misaligned target faults. -/
def Obligations.JumpsLinkAndTransferOrFault : Prop :=
  ∀ (s : State) (rd rs1 : Reg) (off : BitVec 21) (imm : BitVec 12),
    ∀ p ∈ [(Instr.jal rd off, BitVec.ofInt 32 (s.pc.toNat + off.toInt)),
           (Instr.jalr rd rs1 imm, BitVec.ofInt 32 ((s.x rs1).toNat + imm.toInt))],
    let target : Word := BitVec.ofNat 32 (2 * (p.2.toNat / 2))
    (opcodeOf (encode (.jal rd off)) = 0b1101111#7 ∧ rdOf (encode (.jal rd off)) = rd
      ∧ ((Instr.jal rd off).wf = true → offJOf (encode (.jal rd off)) = off)
      ∧ opcodeOf (encode (.jalr rd rs1 imm)) = 0b1100111#7 ∧ funct3Of (encode (.jalr rd rs1 imm)) = 0b000#3
      ∧ rdOf (encode (.jalr rd rs1 imm)) = rd ∧ rs1Of (encode (.jalr rd rs1 imm)) = rs1
      ∧ bits (encode (.jalr rd rs1 imm)) 20 12 = imm)
    ∧ (target.toNat % 4 = 0 →
        ∃ t, exec p.1 s = .next t ∧ wroteReg s t rd (BitVec.ofNat 32 (s.pc.toNat + 4)) ∧ t.pc = target
          ∧ dataKept s t ∧ coreKept s t)
    ∧ (target.toNat % 4 ≠ 0 →
        exec p.1 s = .fault (.misalignedTarget { faultAddr := target, pc := s.pc, word := encode p.1 }))

/-- R310–R312: ECALL and EBREAK have their whole words, end the run Halted with the forced-stall latch
set, and change no register, memory or pc. -/
def Obligations.HaltInstructionsEndTheRun : Prop :=
  encode .ecall = 0x00000073#32 ∧ encode .ebreak = 0x00100073#32
  ∧ ∀ (s : State), ∀ i ∈ [Instr.ecall, Instr.ebreak],
      ∃ t, exec i s = .next t ∧ t.status = .halted ∧ t.f = { s.f with halted := true }
        ∧ t.pc = s.pc ∧ regsKept s t ∧ dataKept s t ∧ microKept s t ∧ t.ptab = s.ptab

/-- R317: a run that has ended does not change, in either machine, and emits no record. -/
def Obligations.EndedRunsDoNotChange : Prop :=
  ∀ (s : State), s.status ≠ .running →
    step s = .next s ∧ tick s = .next s ∧ harnessStep s = .ok (s, none, s.status)

/-! ### The sequential step -/

/-- A step runs the instruction its fetched bytes decode to: the four bytes at the word of the pc, low
address first (R88, R93). Around `exec` the step restarts the pipeline behind the new pc, which is the
model's choice (log 3). -/
def Obligations.StepRunsTheDecodedInstruction : Prop :=
  ∀ (s : State) (i : Instr), s.status = .running → s.selfModified = false →
    s.pc.toNat < 4 * s.cfg.memWords →
    (let a := 4 * (s.pc.toNat / 4)
     decodeBytes [s.imem.byte a, s.imem.byte (a + 1), s.imem.byte (a + 2), s.imem.byte (a + 3)]
       = .ok (i, [])) →
    step s = mapNext State.restart (exec i s)

/-- Where a running step stops before any instruction runs: a word a committed store wrote is refused
(I7), a pc outside memory is a FetchFault with word 0 (R454), and an undecodable word is a DecodeFault
with its address and word (R453). -/
def Obligations.StepStopsWhereNothingDecodes : Prop :=
  ∀ (s : State), s.status = .running →
    (s.pc.toNat / 4 ∈ s.stored → step s = .refused (.selfModifying s.pc))
    ∧ (s.pc.toNat / 4 ∉ s.stored → 4 * s.cfg.memWords ≤ s.pc.toNat →
        step s = .fault (.fetchFault { faultAddr := s.pc, pc := s.pc, word := 0#32 }))
    ∧ (s.pc.toNat / 4 ∉ s.stored → s.pc.toNat < 4 * s.cfg.memWords →
        (∀ i, decode (s.imem.readWord (s.pc.toNat / 4)) ≠ .ok i) →
        step s = .fault (.decodeFault
          { faultAddr := s.pc, pc := s.pc, word := s.imem.readWord (s.pc.toNat / 4) }))

/-- The invariant holds at reset. -/
def Obligations.ResetSatisfiesTheInvariant : Prop := State.reset.inv = true

/-- From every state that meets it, a step keeps the invariant: legal parameters, canonical memories and
tables inside their ranges, an aligned pc, and x0's slot and counter at 0. -/
def Obligations.StepKeepsTheInvariant : Prop :=
  ∀ (s t : State), s.inv = true → step s = .next t → t.inv = true

/-- R85: neither a step nor a tick writes instruction memory, nor the parameters; only a store changes
data memory. -/
def Obligations.OnlyStoresWriteMemory : Prop :=
  (∀ (s t : State), step s = .next t → t.imem = s.imem ∧ t.cfg = s.cfg)
  ∧ (∀ (s t : State), tick s = .next t → t.imem = s.imem ∧ t.cfg = s.cfg)
  ∧ (∀ (s t : State) (i : Instr), exec i s = .next t → (Instr.bundle i).mem.isStore = false →
      t.dmem = s.dmem)
  ∧ ∀ (s t : State), tick s = .next t → (s.m.live && s.m.c.mem.isStore) = false → t.dmem = s.dmem

/-- R443, R49: what a step computes does not depend on the predictor policy, its index width, its table
or any pipeline register. -/
def Obligations.ResultsIgnorePredictorAndPipeline : Prop :=
  ∀ (s : State) (p : Policy) (n : Nat) (tab : PredTable) (f : FetchRegs) (d : DecodeReg) (e : ExecuteReg)
    (m : MemoryReg) (w : WriteBackReg) (cnt : Counters) (b : BypassRecord) (c : Nat),
    let s' : State :=
      { s with cfg := { s.cfg with predictor := p, predBits := n }, ptab := tab, f := f, d := d, e := e
               m := m, w := w, cnt := cnt, bypass := b, cycle := c }
    (∀ t, step s = .next t → ∃ t', step s' = .next t' ∧ t'.regs = t.regs ∧ t'.pc = t.pc
      ∧ t'.dmem = t.dmem ∧ t'.status = t.status ∧ t'.stored = t.stored)
    ∧ (∀ r, step s = .fault r → step s' = .fault r)
    ∧ ∀ r, step s = .refused r → step s' = .refused r

/-! ### Decoding and encoding -/

/-- Every well-formed instruction's word decodes to it, whatever its operands. -/
def Obligations.DecodeInvertsEncode : Prop :=
  ∀ i : Instr, i.wf = true → decode (encode i) = .ok i

/-- Every word that decodes is the encoding of what it decodes to, a well-formed instruction. -/
def Obligations.EncodeInvertsDecode : Prop :=
  ∀ (w : Word) (i : Instr), decode w = .ok i → encode i = w ∧ i.wf = true

/-- R149, R143: a word decodes exactly when a row of the opcode table fits it, to the instruction of that
row; no word fits two rows. -/
def Obligations.DecodeAgreesWithTheOpcodeTable : Prop :=
  opcodeTable.length = 39
  ∧ (∀ (w : Word), ∀ r ∈ opcodeTable,
      w &&& r.mask = r.pattern ↔ ∃ i, decode w = .ok i ∧ i.mnemonic = r.mnemonic)
  ∧ (∀ (w : Word) (i : Instr), decode w = .ok i → ∃ r ∈ opcodeTable, w &&& r.mask = r.pattern)
  ∧ ∀ (w : Word), ∀ r ∈ opcodeTable, ∀ q ∈ opcodeTable,
      w &&& r.mask = r.pattern → w &&& q.mask = q.pattern → r = q

/-- R101, R102, R145, R146, R315: FENCE and FENCE.I, the AMO space, the custom spaces, every word whose
low two bits are not 0b11, and every SYSTEM word outside HALT_WORDS are rejected by name. -/
def Obligations.UnimplementedWordsAreRejected : Prop :=
  ∀ w : Word,
    (opcodeOf w = 0b0001111#7 ∨ opcodeOf w = 0b0101111#7
      ∨ opcodeOf w ∈ [0b0001011#7, 0b0101011#7, 0b1011011#7, 0b1111011#7]
      ∨ w.toNat % 4 ≠ 3 ∨ (opcodeOf w = 0b1110011#7 ∧ w ∉ haltWords)) →
    decode w = .error (.noMatch w)

/-- R143: no word matches more than one class. -/
def Obligations.NoWordMatchesTwoClasses : Prop :=
  ∀ w v : Word, decode w ≠ .error (.multipleMatch v)

/-- Words written out in the spec's examples decode to the instructions they stand for (R214, R224, R232,
R233, R257, R262, R286, R291, R292, R312). -/
def Obligations.ExampleWordsDecode : Prop :=
  decode 0x002081B3#32 = .ok (.add 3 1 2) ∧ decode 0xFFF00093#32 = .ok (.addi 1 0 0xFFF)
  ∧ decode 0x40415193#32 = .ok (.srai 3 2 4) ∧ decode 0x123452B7#32 = .ok (.lui 5 0x12345)
  ∧ decode 0x00211183#32 = .ok (.lh 3 2 2) ∧ decode 0x00111123#32 = .ok (.sh 2 1 2)
  ∧ decode 0xFE209CE3#32 = .ok (.bne 1 2 (BitVec.ofInt 13 (-8)))
  ∧ decode 0x100000EF#32 = .ok (.jal 1 0x100) ∧ decode 0x003280E7#32 = .ok (.jalr 1 5 3)
  ∧ decode 0x00100073#32 = .ok .ebreak

/-! ### Reset and loading -/

/-- R490, R491, R47, R44, R45: the reset values, with RESET_PC entered through the pending redirect. Which value
of a bundle's `alu`, `op1_sel`, `op2_sel` and `wb_src` is the 0 of R41 is the model's choice (log 10). -/
def Obligations.ResetLeavesTheSpecifiedValues : Prop :=
  (∀ r, State.reset.x r = 0#32) ∧ State.reset.pc = 0#32
  ∧ State.reset.f = { pc := 0#32, redirValid := true, redirTarget := 0#32, stall := false, halted := false }
  ∧ State.reset.d = .bubble ∧ State.reset.e = .bubble ∧ State.reset.m = .bubble ∧ State.reset.w = .bubble
  ∧ State.reset.e.valid = false ∧ State.reset.e.c = Bundle.zero ∧ State.reset.e.fault = none
  ∧ (∀ r, State.reset.cnt.count r = 0#2)
  ∧ State.reset.bypass = { pendD := none, bypE := none, bypM := none }
  ∧ (∀ j, State.reset.ptab.level j = predReset) ∧ State.reset.status = .running

/-- R86, R470: before cycle 0 word i of both instances is IMAGE[i], then the drawn word; an image that is
too long is refused; the state loaded meets the invariant. -/
def Obligations.BootLoadsTheImageIntoBothMemories : Prop :=
  ∀ (cfg : Config) (image drawn : List Word), cfg.wf = true →
    (cfg.memWords < image.length → boot cfg image drawn = .refused (.imageTooLong image.length))
    ∧ (image.length ≤ cfg.memWords →
        ∃ s, boot cfg image drawn = .next s ∧ s.inv = true ∧ s.drained = true ∧ s.pc = cfg.resetPc
          ∧ s.status = .running
          ∧ ∀ i (h : i < (image ++ drawn).length), i < cfg.memWords →
              s.imem.readWord i = (image ++ drawn)[i] ∧ s.dmem.readWord i = (image ++ drawn)[i])

/-! ### The occupancy tracker and the predictor -/

/-- R333: a claim and a release of one register cancel; otherwise each moves its own counter by one; the
only errors are a claim at 3 and a release at 0. -/
def Obligations.OccupancyCommitCounts : Prop :=
  ∀ (cnt : Counters) (ct rt : Option Reg),
    (∀ cnt', occupancyCommit cnt ct rt = .ok cnt' →
      ∀ r : Reg, r ≠ 0#5 →
        (cnt'.count r).toNat + (if rt = some r then 1 else 0)
          = (cnt.count r).toNat + (if ct = some r then 1 else 0))
    ∧ (∀ r, occupancyCommit cnt ct rt = .error (.overflow r) ↔
        ct = some r ∧ rt ≠ ct ∧ cnt.count r = 3#2)
    ∧ (∀ r, occupancyCommit cnt ct rt = .error (.underflow r) ↔
        rt = some r ∧ rt ≠ ct ∧ cnt.count r = 0#2 ∧ ∀ c, ct = some c → cnt.count c ≠ 3#2)

/-- R379: under the adaptive policy, k taken updates from a branch's address leave its entry at
min(3, start + k) and k not-taken updates at start − k, and the prediction is taken from level 2 up. -/
def Obligations.AdaptiveEntriesSaturate : Prop :=
  ∀ (cfg : Config) (t : PredTable) (a : Word) (p : Bool) (k : Nat), cfg.predictor = .adaptive →
    sparseWf predReset t = true →
    let i := a.toNat % 2 ^ cfg.predBits
    let up := (List.range k).foldl (fun u _ => updatePredictor cfg u a p true) t
    let down := (List.range k).foldl (fun u _ => updatePredictor cfg u a p false) t
    (up.level i).toNat = min 3 ((t.level i).toNat + k)
      ∧ (down.level i).toNat = (t.level i).toNat - k
      ∧ (∀ j, j ≠ i → up.level j = t.level j ∧ down.level j = t.level j)
      ∧ (predict cfg up a = true ↔ 2 ≤ min 3 ((t.level i).toNat + k))
      ∧ (predict cfg down a = true ↔ 2 ≤ (t.level i).toNat - k)

/-- R377: the static policies answer always and never, and hold no state. -/
def Obligations.StaticPoliciesAreFixed : Prop :=
  ∀ (cfg : Config) (t : PredTable) (a b : Word) (p q : Bool),
    (cfg.predictor = .alwaysTaken → predict cfg t a = true ∧ updatePredictor cfg t b p q = t)
    ∧ (cfg.predictor = .neverTaken → predict cfg t a = false ∧ updatePredictor cfg t b p q = t)

/-! ### The control table -/

/-- The control table realises the instruction rules: the entry Decode would issue for `i` with the
architectural register values, taken through Execute, Memory and WriteBack, has exactly `exec`'s effect
or raises exactly its fault, whatever was predicted (R165, R403–R411). -/
def Obligations.ControlTableRealisesTheRules : Prop :=
  ∀ (s : State) (i : Instr) (pred : Bool), s.status = .running →
    let c := Instr.bundle i
    let e : ExecuteReg :=
      { valid := true, pc := s.pc, word := encode i, c := c, pred := pred, fault := none, faultAddr := 0#32
        v1 := if c.rs1Valid then s.x c.rs1 else 0#32, v2 := if c.rs2Valid then s.x c.rs2 else 0#32 }
    let x := executeStage s.cfg e
    let w := memoryStage s.dmem x.next
    match x.exfault with
    | some (k, a) => exec i s = .fault (k.toFault { faultAddr := a, pc := s.pc, word := encode i })
    | none =>
      exec i s = .next
        { s with
          regs := writeBackRegs s.regs w
          pc := writeBackPc s.pc w
          dmem := memoryCommit s.dmem x.next
          ptab := writeBackPredictor s.cfg s.ptab w
          stored := writeBackStored s.stored w
          status := writeBackStatus w
          f := { s.f with halted := s.f.halted || c.halt } }

/-- R164, R167, I19: no row selects FOUR, only the halts set the forced-stall flag, and a halt has no
destination, source, memory operation or redirect. -/
def Obligations.ControlTableShape : Prop :=
  ∀ i : Instr,
    let c := Instr.bundle i
    c.op1Sel ≠ .four ∧ c.op2Sel ≠ .four
    ∧ (c.halt = true ↔ i = .ecall ∨ i = .ebreak)
    ∧ (c.halt = true → c.rdValid = false ∧ c.rs1Valid = false ∧ c.rs2Valid = false ∧ c.mem = .none
        ∧ c.isBranch = false ∧ c.uncond = false)
    ∧ (c.rdValid = false → c.rd = 0#5) ∧ (c.rs1Valid = false → c.rs1 = 0#5)
    ∧ (c.rs2Valid = false → c.rs2 = 0#5)

/-! ### One tick -/

/-- R392, R394: the address Fetch takes, and that F.pc takes it in every cycle. -/
def Obligations.FetchAddressSelection : Prop :=
  ∀ (s t : State), s.status = .running → tick s = .next t →
    t.f.pc = (if s.f.redirValid then s.f.redirTarget
              else if s.f.halted then s.f.pc
              else if s.f.stall then s.f.pc
              else BitVec.ofNat 32 (s.f.pc.toNat + 4))

/-- R412: a redirect from Execute empties E and D, clears the stall, claims nothing, and is what Fetch
reads in the next cycle. R412 gives an empty register `valid` = 0 only; that its other fields are 0 too is the
model's choice (log 10). -/
def Obligations.ExecuteRedirectSteersFetch : Prop :=
  ∀ (s t : State) (a : Word), s.status = .running → tick s = .next t →
    (executeStage s.cfg s.e).flush = some a →
    t.e = .bubble ∧ t.d = .bubble ∧ t.f.redirValid = true ∧ t.f.redirTarget = a ∧ t.f.stall = false
      ∧ t.f.halted = (s.f.halted || (executeStage s.cfg s.e).exfault.isSome)
      ∧ s.selection.ct = none ∧ fetchAddress t.f = (a, true)

/-- R412: when Execute squashes, what D held leaves no trace anywhere. -/
def Obligations.SquashedInstructionsLeaveNoTrace : Prop :=
  ∀ (s : State) (d : DecodeReg), (executeStage s.cfg s.e).squash = true → s.status = .running →
    tick { s with d := d } = tick s

/-- R339, R413: a stall issues a bubble, holds D, claims nothing and latches F.stall, which makes Fetch
hold its address. R413 gives the bubble `valid` = 0 only; that its other fields are 0 too is the model's choice
(log 10). -/
def Obligations.StallHoldsDecode : Prop :=
  ∀ (s t : State), s.status = .running → tick s = .next t → decodeStage s = .stall →
    (executeStage s.cfg s.e).squash = false →
    t.e = .bubble ∧ t.d = s.d ∧ t.f.stall = true ∧ t.f.redirValid = false ∧ s.selection.ct = none
      ∧ fetchAddress t.f = (t.f.pc, !t.f.halted)

/-- R411, R414, R461: a marker in W writes no register, trains no predictor, moves no pc, gives no trace record,
and ends the run with its kind, address, pc and word. It stores nothing and adds nothing to the record of stored
words (log 4); data memory is unchanged in that tick where the state is coherent, so that no store is behind it. -/
def Obligations.MarkersEndTheRunUnchanged : Prop :=
  ∀ (s : State) (k : FaultKind), s.status = .running → s.w.valid = true → s.w.fault = some k →
    s.nextTick.regs = s.regs ∧ s.nextTick.ptab = s.ptab ∧ s.nextTick.pc = s.pc ∧ s.traceRecord = none
    ∧ s.nextTick.stored = s.stored ∧ (s.coherent = true → s.nextTick.dmem = s.dmem)
    ∧ (s.violation = none →
        s.nextTick.status = .faulted (k.toFault { faultAddr := s.w.faultAddr, pc := s.w.pc, word := s.w.word }))
    ∧ (s.violation = none → s.tickSelfModified = false →
        tick s = .fault (k.toFault { faultAddr := s.w.faultAddr, pc := s.w.pc, word := s.w.word }))

/-- R472: a tick with a live entry in W emits one record: its address and word, its destination and value
or none, and the register file after its write; a bubble or a marker gives none. -/
def Obligations.TraceRecordsEachCommit : Prop :=
  ∀ (s : State), s.status = .running →
    (s.w.live = false → s.traceRecord = none)
    ∧ (s.w.live = true →
        ∃ r, s.traceRecord = some r ∧ r.cycle = s.cycle ∧ r.pc = s.w.pc ∧ r.word = s.w.word
          ∧ r.regs = s.nextTick.regs
          ∧ (s.w.c.rdValid = true → s.w.c.rd ≠ 0#5 →
              r.rd = some s.w.c.rd ∧ r.value = some (wbValue s.w) ∧ s.nextTick.x s.w.c.rd = wbValue s.w)
          ∧ (s.w.c.rdValid = false ∨ s.w.c.rd = 0#5 → r.rd = none ∧ r.value = none))

/-! ### The cycle machine's invariant and its refinement of the sequential machine -/

/-- An empty pipeline steered to the pc is coherent: reset is, and so is every state a step leaves while
the run goes on. -/
def Obligations.DrainedStatesAreCoherent : Prop :=
  State.reset.coherent = true
  ∧ ∀ (s : State), s.inv = true → s.drained = true → s.status = .running → s.coherent = true

/-- From every coherent state, a tick that does not end the run keeps coherence: R340's counters, R335's
bypass record, R417, R418, and the sequential path through E, M, W and D. What coherence asks of a decode or
fetch marker's selectors and prediction is the model's choice (log 10). -/
def Obligations.TickKeepsCoherence : Prop :=
  ∀ (s t : State), s.coherent = true → s.status = .running → tick s = .next t → t.status = .running →
    t.coherent = true

/-- R340, R335, R417, R418: a tick keeps the counter invariant, leaves the bypass record its definition gives
and never a redirect with a stall, and never clears the halt latch. -/
def Obligations.TickKeepsAssertedInvariants : Prop :=
  ∀ (s t : State), s.status = .running → tick s = .next t →
    (s.countersOk = true → t.countersOk = true) ∧ t.bypassOk = true
      ∧ (t.f.redirValid && t.f.stall) = false ∧ (s.f.halted = true → t.f.halted = true)

/-- R341, R340: no assertion fails where the counter invariant holds and no redirect is pending with a stall. -/
def Obligations.NoAssertionFails : Prop :=
  ∀ (s : State), s.countersOk = true → (s.f.redirValid && s.f.stall) = false → s.violation = none

/-- R342: in a coherent state, a source the hazard test lets Decode read has the value every older
instruction in flight leaves in it, and the instruction in E does not write it. -/
def Obligations.HazardTestReadsTheYoungestWrite : Prop :=
  ∀ (s : State) (r : Reg) (v : Word), s.coherent = true → s.canRead r = some v →
    v = s.regsAfterM.read r ∧ s.e.dst ≠ some r

/-- R440: in a coherent state a tick commits exactly what the sequential step executes. With nothing in W the
registers, the pc, the predictor table, the record of stores and the status are unchanged; with an entry in W
the step and the tick agree on those, on the fault, or on the refusal. Data memory is as log 14 (DEDUCED) reads
R440: the step's is the one W's store has already left, and the tick's has M's store beside it. -/
def Obligations.TickCommitsWhatStepExecutes : Prop :=
  ∀ (s : State), s.coherent = true → s.status = .running →
    (s.w.valid = false → ∃ t, tick s = .next t ∧ sameArch t s ∧ t.dmem = memoryCommit s.dmem s.m)
    ∧ (s.w.valid = true →
        (∀ u, step s = .next u →
          u.dmem = s.dmem ∧ ∃ t, tick s = .next t ∧ sameArch t u ∧ t.dmem = memoryCommit u.dmem s.m)
        ∧ (∀ r, step s = .fault r → tick s = .fault r)
        ∧ ∀ r, step s = .refused r → tick s = .refused r)

/-- R440 over whole runs: from a drained state that meets the invariant, whatever n ticks answer, some k
sequential steps answer: the same registers, pc, predictor table, record of stores and status, and the same data
memory once the store in W, which has already written, is committed (log 14, DEDUCED); or the same fault, with
the registers and the data memory the harness reads after it (R461, R471) those of the sequential state before
it; or the same refusal. -/
def Obligations.CycleRunsRefineSequentialRuns : Prop :=
  ∀ (s : State) (n : Nat), s.inv = true → s.drained = true → s.status = .running →
    (∀ u, ticks n s = .next u →
      ∃ k t, k ≤ n ∧ steps k s = .next t ∧ sameArch u t ∧ u.dmem = memoryCommit t.dmem u.w.toMemoryReg)
    ∧ (∀ r, ticks n s = .fault r →
      ∃ m u k t, m < n ∧ ticks m s = .next u ∧ tick u = .fault r
        ∧ k ≤ m ∧ steps k s = .next t ∧ step t = .fault r ∧ steps (k + 1) s = .fault r
        ∧ sameArch u t ∧ u.nextTick.regs = t.regs ∧ u.nextTick.dmem = t.dmem)
    ∧ ∀ r, ticks n s = .refused r → ∃ k, k ≤ n ∧ steps k s = .refused r

/-- R492: from an empty pipeline the first instruction is in W after four ticks, its store already done, and
commits in the fifth: the registers, pc, predictor table, record of stores and status the sequential step
leaves, and its data memory with the store of the entry behind it, which has moved to W (log 14, DEDUCED); or
the step's fault or refusal. -/
def Obligations.FirstCommitIsInTheFifthTick : Prop :=
  ∀ (s : State), s.inv = true → s.drained = true → s.status = .running →
    (∀ t, step s = .next t →
      (∃ v, ticks 4 s = .next v ∧ v.dmem = t.dmem ∧ v.regs = s.regs ∧ v.w.valid = true ∧ v.w.pc = s.pc)
      ∧ ∃ u, ticks 5 s = .next u ∧ sameArch u t ∧ u.dmem = memoryCommit t.dmem u.w.toMemoryReg
        ∧ u.cycle = s.cycle + 5)
    ∧ (∀ r, step s = .fault r → ticks 5 s = .fault r)
    ∧ ∀ r, step s = .refused r → ticks 5 s = .refused r

/-- R442, R503: from a coherent running state an entry reaches WriteBack within four ticks, and nothing
stops the run before. -/
def Obligations.SomethingReachesWriteBack : Prop :=
  ∀ (s : State), s.coherent = true → s.status = .running →
    ∃ n u, n ≤ 4 ∧ ticks n s = .next u ∧ u.w.valid = true ∧ u.status = .running

/-- R442: Decode does not stall in three consecutive cycles. -/
def Obligations.StallsLastAtMostTwoCycles : Prop :=
  ∀ (s t u : State), s.coherent = true → s.status = .running → decodeStage s = .stall →
    tick s = .next t → decodeStage t = .stall → tick t = .next u → decodeStage u ≠ .stall

/-- R314, R505: a halt that issues without being squashed commits three cycles later, and no fault comes
first. -/
def Obligations.IssuedHaltCommits : Prop :=
  ∀ (s : State) (e : ExecuteReg), s.coherent = true → s.status = .running → decodeStage s = .issue e →
    e.c.halt = true → (executeStage s.cfg s.e).squash = false →
    (∀ u, ticks 4 s = .next u → u.status = .halted ∧ u.cycle = s.cycle + 4)
    ∧ ∀ r, ticks 4 s ≠ .fault r

/-- R343: when a halt or a marker in W ends the run, every counter is 0. -/
def Obligations.CountersAreZeroAtTermination : Prop :=
  ∀ (s : State), s.coherent = true → s.status = .running → s.nextTick.status ≠ .running →
    ∀ r, s.nextTick.cnt.count r = 0#2

/-- R459: a run the budget stopped goes on, under another budget, as if uninterrupted, and a budget of n
allows at most n ticks. -/
def Obligations.BudgetedRunsResume : Prop :=
  ∀ (n m : Nat) (s t : State), Machine.run n s = .ok (t, .cycleBudgetExceeded) →
    Machine.run (n + m) s = Machine.run m t ∧ t.cycle = s.cycle + n ∧ t.status = .running
end

