-- ==== Sys2Proof/Laws/Sparse.lean ====
section
/-! SUPPORT. The laws of the sparse lists: read after write, and that a write keeps the canonical form and
the range. -/

namespace Sys2Proof.Machine

variable {α : Type} [DecidableEq α] (d : α)

omit [DecidableEq α] in
theorem sparseGet_of_below {m : List (Nat × α)} {k : Nat} (h : m.all (fun c => decide (k < c.1)) = true)
    {a : Nat} (ha : a ≤ k) : sparseGet d m a = d := by
  induction m with
  | nil => rfl
  | cons c t ih =>
    obtain ⟨j, u⟩ := c
    simp only [List.all_cons, Bool.and_eq_true, decide_eq_true_eq] at h
    have : a ≠ j := by omega
    simp only [sparseGet, this, if_false]
    exact ih h.2

/-- Read after write, on a canonical list. -/
theorem sparseGet_put {m : List (Nat × α)} (h : sparseWf d m = true) (a b : Nat) (v : α) :
    sparseGet d (sparsePut d m a v) b = if b = a then v else sparseGet d m b := by
  induction m with
  | nil =>
    by_cases hv : v = d
    · simp [sparsePut, hv, sparseGet]
    · simp [sparsePut, hv, sparseGet]
  | cons c t ih =>
    obtain ⟨k, u⟩ := c
    simp only [sparseWf, Bool.and_eq_true] at h
    obtain ⟨⟨_, hk⟩, ht⟩ := h
    unfold sparsePut
    by_cases h1 : a < k
    · have habs : sparseGet d ((k, u) :: t) a = d := by
        have : a ≠ k := by omega
        simp only [sparseGet, this, if_false]
        exact sparseGet_of_below d hk (by omega)
      by_cases hv : v = d
      · by_cases hb : b = a
        · subst hb; simp [h1, hv, habs]
        · simp [h1, hv, hb]
      · simp [h1, hv, sparseGet]
    · by_cases h2 : a = k
      · subst h2
        by_cases hv : v = d
        · by_cases hb : b = a
          · subst hb
            simp [hv, sparseGet_of_below d hk (Nat.le_refl b)]
          · simp [hv, hb, sparseGet]
        · by_cases hb : b = a <;> simp [hv, hb, sparseGet]
      · simp only [h1, h2, if_false, sparseGet, ih ht]
        by_cases hb : b = k
        · simp [hb, Ne.symm h2]
        · simp [hb]

/-- An entry of the written list is at the written key or was there before. -/
theorem mem_sparsePut {m : List (Nat × α)} {a : Nat} {v : α} {c : Nat × α} (h : c ∈ sparsePut d m a v) :
    c.1 = a ∨ c ∈ m := by
  induction m with
  | nil =>
    unfold sparsePut at h
    split at h
    · cases h
    · rw [List.mem_singleton] at h
      exact .inl (h ▸ rfl)
  | cons b t ih =>
    obtain ⟨j, u⟩ := b
    unfold sparsePut at h
    split at h
    · split at h
      · exact .inr h
      · rcases List.mem_cons.1 h with h | h
        · exact .inl (h ▸ rfl)
        · exact .inr h
    · split at h
      · split at h
        · exact .inr (List.mem_cons_of_mem _ h)
        · rcases List.mem_cons.1 h with h | h
          · exact .inl (h ▸ rfl)
          · exact .inr (List.mem_cons_of_mem _ h)
      · rcases List.mem_cons.1 h with h | h
        · exact .inr (h ▸ List.mem_cons_self)
        · exact (ih h).imp id (List.mem_cons_of_mem _)

theorem sparsePut_all_gt {m : List (Nat × α)} {k a : Nat} {v : α}
    (h : m.all (fun c => decide (k < c.1)) = true) (ha : k < a) :
    (sparsePut d m a v).all (fun c => decide (k < c.1)) = true := by
  rw [List.all_eq_true] at h ⊢
  intro c hc
  rcases mem_sparsePut d hc with hc | hc
  · simpa [hc] using ha
  · exact h c hc

/-- A write keeps the canonical form. -/
theorem sparsePut_wf {m : List (Nat × α)} (h : sparseWf d m = true) (a : Nat) (v : α) :
    sparseWf d (sparsePut d m a v) = true := by
  induction m with
  | nil => by_cases hv : v = d <;> simp [sparsePut, hv, sparseWf]
  | cons c t ih =>
    obtain ⟨k, u⟩ := c
    have h' := h
    simp only [sparseWf, Bool.and_eq_true] at h
    obtain ⟨⟨hu, hk⟩, ht⟩ := h
    unfold sparsePut
    split
    case isTrue h1 =>
      split
      · exact h'
      · rename_i hv
        simp only [sparseWf, Bool.and_eq_true, List.all_cons, decide_eq_true_eq]
        refine ⟨⟨by simp [hv], h1, ?_⟩, ⟨hu, hk⟩, ht⟩
        rw [List.all_eq_true] at hk ⊢
        intro c hc
        have := hk c hc
        simp only [decide_eq_true_eq] at this ⊢
        omega
    case isFalse h1 =>
      split
      case isTrue h2 =>
        subst h2
        split
        · exact ht
        · rename_i hv
          simp only [sparseWf, Bool.and_eq_true]
          exact ⟨⟨by simp [hv], hk⟩, ht⟩
      case isFalse h2 =>
        simp only [sparseWf, Bool.and_eq_true]
        exact ⟨⟨hu, sparsePut_all_gt d hk (by omega)⟩, ih ht⟩

/-- A write below the bound keeps every key below it. -/
theorem sparsePut_below {m : List (Nat × α)} {n : Nat} (h : sparseBelow n m = true) {a : Nat} (ha : a < n)
    (v : α) : sparseBelow n (sparsePut d m a v) = true := by
  unfold sparseBelow at h ⊢
  rw [List.all_eq_true] at h ⊢
  intro c hc
  rcases mem_sparsePut d hc with hc | hc
  · simpa [hc] using ha
  · exact h c hc

/-- Equal contents are equal data: two canonical lists that read alike are the same list. -/
theorem sparse_ext {m n : List (Nat × α)} (hm : sparseWf d m = true) (hn : sparseWf d n = true)
    (h : ∀ a, sparseGet d m a = sparseGet d n a) : m = n := by
  induction m generalizing n with
  | nil =>
    cases n with
    | nil => rfl
    | cons c t =>
      obtain ⟨k, u⟩ := c
      simp only [sparseWf, Bool.and_eq_true] at hn
      have := h k
      simp [sparseGet] at this
      simp [← this] at hn
  | cons c t ih =>
    obtain ⟨k, u⟩ := c
    have hm' := hm
    simp only [sparseWf, Bool.and_eq_true] at hm
    obtain ⟨⟨hu, hk⟩, ht⟩ := hm
    cases n with
    | nil =>
      have := h k
      simp [sparseGet] at this
      simp [this] at hu
    | cons c' t' =>
      obtain ⟨k', u'⟩ := c'
      have hn' := hn
      simp only [sparseWf, Bool.and_eq_true] at hn
      obtain ⟨⟨hu', hk'⟩, ht'⟩ := hn
      have hkk : k = k' := by
        rcases Nat.lt_trichotomy k k' with hlt | heq | hgt
        · have h1 := h k
          have h2 : sparseGet d ((k', u') :: t') k = d := by
            have : k ≠ k' := by omega
            simp only [sparseGet, this, if_false]
            exact sparseGet_of_below d hk' (by omega)
          rw [h2] at h1
          simp [sparseGet] at h1
          simp [h1] at hu
        · exact heq
        · have h1 := h k'
          have h2 : sparseGet d ((k, u) :: t) k' = d := by
            have : k' ≠ k := by omega
            simp only [sparseGet, this, if_false]
            exact sparseGet_of_below d hk (by omega)
          rw [h2] at h1
          simp [sparseGet] at h1
          simp [← h1] at hu'
      subst hkk
      have huu : u = u' := by simpa [sparseGet] using h k
      subst huu
      have htt : t = t' := by
        apply ih ht ht'
        intro a
        by_cases ha : a = k
        · subst ha
          rw [sparseGet_of_below d hk (Nat.le_refl a), sparseGet_of_below d hk' (Nat.le_refl a)]
        · simpa [sparseGet, ha] using h a
      rw [htt]

end Sys2Proof.Machine
end

