-- ==== Sys2Proof/Laws/Memory.lean ====
section
/-! SUPPORT. The memory device and the core's byte lanes (20_memory.md R81, R82, R87, R91): what each operation leaves
at every byte address, and that it keeps the canonical form and the range. -/

namespace Sys2Proof.Machine

/-! ### Addresses -/

theorem wordIndex_eq (a : Word) : wordIndex a = a.toNat / 4 := by
  simp only [wordIndex, BitVec.extractLsb'_toNat, Nat.shiftRight_eq_div_pow]
  have := a.isLt
  omega

theorem laneOf_eq (a : Word) : laneOf a = a.toNat % 4 := by
  simp [laneOf, BitVec.extractLsb'_toNat]

theorem laneOf_lt (a : Word) : laneOf a < 4 := by
  rw [laneOf_eq]; omega

/-- A byte address is its word's first byte and its lane. -/
theorem wordIndex_laneOf (a : Word) : 4 * wordIndex a + laneOf a = a.toNat := by
  rw [wordIndex_eq, laneOf_eq]; omega

/-- In range by word index is in range by byte address (R83, R97). -/
theorem inRange_iff (cfg : Config) (a : Word) : inRange cfg a = true ↔ a.toNat < 4 * cfg.memWords := by
  simp only [inRange, wordIndex_eq, decide_eq_true_eq]
  omega

/-! ### One byte -/

theorem Memory.byte_setByte {m : Memory} (h : m.wf = true) (a b : Nat) (v : Byte) :
    (m.setByte a v).byte b = if b = a then v else m.byte b :=
  sparseGet_put _ h a b v

theorem Memory.setByte_wf {m : Memory} (h : m.wf = true) (a : Nat) (v : Byte) : (m.setByte a v).wf = true :=
  sparsePut_wf _ h a v

theorem Memory.setByte_below {m : Memory} {n : Nat} (h : sparseBelow n m = true) {a : Nat} (ha : a < n)
    (v : Byte) : sparseBelow n (m.setByte a v) = true :=
  sparsePut_below _ h ha v

/-- Memories that read alike are equal (canonical form). -/
theorem Memory.ext_byte {m n : Memory} (hm : m.wf = true) (hn : n.wf = true)
    (h : ∀ a, m.byte a = n.byte a) : m = n :=
  sparse_ext _ hm hn h

/-! ### One lane, one word -/

theorem Memory.writeLane_wf {m : Memory} (h : m.wf = true) (idx : Nat) (data : Word) (mask : BitVec 4)
    (k : Nat) : (m.writeLane idx data mask k).wf = true := by
  unfold Memory.writeLane
  split
  · exact Memory.setByte_wf h _ _
  · exact h

theorem Memory.writeLane_below {m : Memory} {n : Nat} (h : sparseBelow (4 * n) m = true) {idx k : Nat}
    (hi : idx < n) (hk : k < 4) (data : Word) (mask : BitVec 4) :
    sparseBelow (4 * n) (m.writeLane idx data mask k) = true := by
  unfold Memory.writeLane
  split
  · exact Memory.setByte_below h (by omega) _
  · exact h

theorem Memory.byte_writeLane {m : Memory} (h : m.wf = true) (idx : Nat) (data : Word) (mask : BitVec 4)
    (k a : Nat) : (m.writeLane idx data mask k).byte a =
      if a = 4 * idx + k ∧ mask.getLsbD k = true then byteLane data k else m.byte a := by
  unfold Memory.writeLane
  by_cases hm : mask.getLsbD k = true
  · rw [if_pos hm, Memory.byte_setByte h]
    simp [hm]
  · rw [if_neg hm]
    simp [hm]

/-- The device's masked write keeps the canonical form. -/
theorem Memory.writeWord_wf {m : Memory} (h : m.wf = true) (idx : Nat) (data : Word) (mask : BitVec 4) :
    (m.writeWord idx data mask).wf = true :=
  Memory.writeLane_wf (Memory.writeLane_wf (Memory.writeLane_wf (Memory.writeLane_wf h _ _ _ _) _ _ _ _)
    _ _ _ _) _ _ _ _

theorem Memory.writeWord_below {m : Memory} {n : Nat} (h : sparseBelow (4 * n) m = true) {idx : Nat}
    (hi : idx < n) (data : Word) (mask : BitVec 4) :
    sparseBelow (4 * n) (m.writeWord idx data mask) = true :=
  Memory.writeLane_below (Memory.writeLane_below (Memory.writeLane_below (Memory.writeLane_below h hi
    (by omega) _ _) hi (by omega) _ _) hi (by omega) _ _) hi (by omega) _ _

/-- Every byte after a masked write (R81). -/
theorem Memory.byte_writeWord {m : Memory} (h : m.wf = true) (idx : Nat) (data : Word) (mask : BitVec 4)
    (a : Nat) : (m.writeWord idx data mask).byte a =
      if a / 4 = idx ∧ mask.getLsbD (a % 4) = true then byteLane data (a % 4) else m.byte a := by
  have h0 := Memory.writeLane_wf h idx data mask 0
  have h1 := Memory.writeLane_wf h0 idx data mask 1
  have h2 := Memory.writeLane_wf h1 idx data mask 2
  unfold Memory.writeWord
  rw [Memory.byte_writeLane h2, Memory.byte_writeLane h1, Memory.byte_writeLane h0, Memory.byte_writeLane h]
  by_cases hi : a / 4 = idx
  · have hr : a % 4 = 0 ∨ a % 4 = 1 ∨ a % 4 = 2 ∨ a % 4 = 3 := by omega
    have ha : a = 4 * idx + a % 4 := by omega
    rcases hr with hr | hr | hr | hr <;> rw [hr] at ha <;> simp [ha] <;>
      (try split) <;> (try simp_all)
  · have e : ∀ k, k < 4 → a ≠ 4 * idx + k := fun k hk => by omega
    have e0 : a ≠ 4 * idx := e 0 (by omega)
    simp [hi, e, e0]

/-! ### Stores and loads of the core -/

/-- The three access widths (R94). -/
def accessWidth (n : Nat) : Prop := n = 1 ∨ n = 2 ∨ n = 4

theorem byteLane_toNat (w : Word) (k : Nat) : (byteLane w k).toNat = w.toNat / 2 ^ (8 * k) % 256 := by
  simp [byteLane, BitVec.extractLsb'_toNat, Nat.shiftRight_eq_div_pow]

theorem storeMask_getLsbD {addr : Word} {n : Nat} (hn : accessWidth n) (ha : addr.toNat % n = 0) {k : Nat}
    (hk : k < 4) : (storeMask addr n).getLsbD k = decide (laneOf addr ≤ k ∧ k < laneOf addr + n) := by
  have hl := laneOf_lt addr
  rw [laneOf_eq] at *
  unfold storeMask
  rw [laneOf_eq]
  rcases hn with rfl | rfl | rfl
  · generalize addr.toNat % 4 = l at *
    interval_cases l <;> interval_cases k <;> decide
  · have : addr.toNat % 4 = 0 ∨ addr.toNat % 4 = 2 := by omega
    rcases this with h | h <;> rw [h] <;> interval_cases k <;> decide
  · rw [ha]; interval_cases k <;> decide

theorem storeData_byteLane {addr : Word} {n : Nat} (v : Word) {k : Nat}
    (h1 : laneOf addr ≤ k) (h2 : k < laneOf addr + n) (hk : k < 4) :
    byteLane (storeData addr n v) k = byteLane v (k - laneOf addr) := by
  apply BitVec.eq_of_getLsbD_eq
  intro i hi
  have e : 8 * k + i - 8 * laneOf addr = 8 * (k - laneOf addr) + i := by omega
  simp only [byteLane, storeData, BitVec.getLsbD_extractLsb', BitVec.getLsbD_shiftLeft,
    BitVec.getLsbD_setWidth, e]
  have c1 : 8 * k + i < 32 := by omega
  have c2 : ¬ 8 * k + i < 8 * laneOf addr := by omega
  have c3 : 8 * (k - laneOf addr) + i < 32 := by omega
  have c4 : 8 * (k - laneOf addr) + i < 8 * n := by omega
  simp [hi, c1, c2, c3, c4]

theorem Memory.store_wf {m : Memory} (h : m.wf = true) (addr : Word) (n : Nat) (v : Word) :
    (m.store addr n v).wf = true :=
  Memory.writeWord_wf h _ _ _

theorem Memory.store_below {m : Memory} {cfg : Config} (h : sparseBelow (4 * cfg.memWords) m = true)
    {addr : Word} (ha : inRange cfg addr = true) (n : Nat) (v : Word) :
    sparseBelow (4 * cfg.memWords) (m.store addr n v) = true :=
  Memory.writeWord_below h (by simpa [inRange] using ha) _ _

/-- Every byte after an aligned store: the n bytes from its address hold the value's low bytes, and every
other byte is unchanged (R87, R91). -/
theorem Memory.byte_store {m : Memory} (h : m.wf = true) {addr : Word} {n : Nat} (hn : accessWidth n)
    (ha : addr.toNat % n = 0) (v : Word) (a : Nat) : (m.store addr n v).byte a =
      if addr.toNat ≤ a ∧ a < addr.toNat + n then byteLane v (a - addr.toNat) else m.byte a := by
  unfold Memory.store
  rw [Memory.byte_writeWord h, storeMask_getLsbD hn ha (Nat.mod_lt _ (by decide))]
  have hw := wordIndex_laneOf addr
  have hl := laneOf_lt addr
  have hspan : laneOf addr + n ≤ 4 := by
    rw [laneOf_eq]
    rcases hn with rfl | rfl | rfl <;> omega
  by_cases hin : addr.toNat ≤ a ∧ a < addr.toNat + n
  · have h1 : a / 4 = wordIndex addr := by omega
    have h2 : laneOf addr ≤ a % 4 := by omega
    have h3 : a % 4 < laneOf addr + n := by omega
    have h4 : a % 4 - laneOf addr = a - addr.toNat := by omega
    rw [if_pos hin, if_pos ⟨h1, by simpa using ⟨h2, h3⟩⟩,
      storeData_byteLane v h2 h3 (Nat.mod_lt _ (by decide)), h4]
  · rw [if_neg hin, if_neg]
    rintro ⟨h1, h2⟩
    simp only [decide_eq_true_eq] at h2
    omega

/-- A byte of the word read is the memory's byte (R87). -/
theorem Memory.byteLane_readWord (m : Memory) (idx : Nat) {k : Nat} (hk : k < 4) :
    byteLane (m.readWord idx) k = m.byte (4 * idx + k) := by
  apply BitVec.eq_of_getLsbD_eq
  intro i hi
  unfold byteLane Memory.readWord wordOfBytes
  interval_cases k <;>
    simp only [BitVec.getLsbD_extractLsb', BitVec.getLsbD_append, hi, decide_true, Bool.true_and] <;>
    split_ifs <;> first | omega | (congr 1; omega)

end Sys2Proof.Machine
end

