-- ==== Sys2Proof/Laws/State.lean ====
section
/-! SUPPORT. What each update of the state leaves in each field, true by definition. -/

namespace Sys2Proof.Machine.State

variable (s : State)

@[simp] theorem writeReg_cfg (r : Reg) (v : Word) : (s.writeReg r v).cfg = s.cfg := rfl
@[simp] theorem writeReg_regs (r : Reg) (v : Word) : (s.writeReg r v).regs = s.regs.write r v := rfl
@[simp] theorem writeReg_pc (r : Reg) (v : Word) : (s.writeReg r v).pc = s.pc := rfl
@[simp] theorem writeReg_imem (r : Reg) (v : Word) : (s.writeReg r v).imem = s.imem := rfl
@[simp] theorem writeReg_dmem (r : Reg) (v : Word) : (s.writeReg r v).dmem = s.dmem := rfl
@[simp] theorem writeReg_f (r : Reg) (v : Word) : (s.writeReg r v).f = s.f := rfl
@[simp] theorem writeReg_d (r : Reg) (v : Word) : (s.writeReg r v).d = s.d := rfl
@[simp] theorem writeReg_e (r : Reg) (v : Word) : (s.writeReg r v).e = s.e := rfl
@[simp] theorem writeReg_m (r : Reg) (v : Word) : (s.writeReg r v).m = s.m := rfl
@[simp] theorem writeReg_w (r : Reg) (v : Word) : (s.writeReg r v).w = s.w := rfl
@[simp] theorem writeReg_cnt (r : Reg) (v : Word) : (s.writeReg r v).cnt = s.cnt := rfl
@[simp] theorem writeReg_bypass (r : Reg) (v : Word) : (s.writeReg r v).bypass = s.bypass := rfl
@[simp] theorem writeReg_ptab (r : Reg) (v : Word) : (s.writeReg r v).ptab = s.ptab := rfl
@[simp] theorem writeReg_cycle (r : Reg) (v : Word) : (s.writeReg r v).cycle = s.cycle := rfl
@[simp] theorem writeReg_status (r : Reg) (v : Word) : (s.writeReg r v).status = s.status := rfl
@[simp] theorem writeReg_stored (r : Reg) (v : Word) : (s.writeReg r v).stored = s.stored := rfl

@[simp] theorem setPc_cfg (a : Word) : (s.setPc a).cfg = s.cfg := rfl
@[simp] theorem setPc_regs (a : Word) : (s.setPc a).regs = s.regs := rfl
@[simp] theorem setPc_pc (a : Word) : (s.setPc a).pc = a := rfl
@[simp] theorem setPc_imem (a : Word) : (s.setPc a).imem = s.imem := rfl
@[simp] theorem setPc_dmem (a : Word) : (s.setPc a).dmem = s.dmem := rfl
@[simp] theorem setPc_f (a : Word) : (s.setPc a).f = s.f := rfl
@[simp] theorem setPc_d (a : Word) : (s.setPc a).d = s.d := rfl
@[simp] theorem setPc_e (a : Word) : (s.setPc a).e = s.e := rfl
@[simp] theorem setPc_m (a : Word) : (s.setPc a).m = s.m := rfl
@[simp] theorem setPc_w (a : Word) : (s.setPc a).w = s.w := rfl
@[simp] theorem setPc_cnt (a : Word) : (s.setPc a).cnt = s.cnt := rfl
@[simp] theorem setPc_bypass (a : Word) : (s.setPc a).bypass = s.bypass := rfl
@[simp] theorem setPc_ptab (a : Word) : (s.setPc a).ptab = s.ptab := rfl
@[simp] theorem setPc_cycle (a : Word) : (s.setPc a).cycle = s.cycle := rfl
@[simp] theorem setPc_status (a : Word) : (s.setPc a).status = s.status := rfl
@[simp] theorem setPc_stored (a : Word) : (s.setPc a).stored = s.stored := rfl

@[simp] theorem advance_cfg : (s.advance).cfg = s.cfg := rfl
@[simp] theorem advance_regs : (s.advance).regs = s.regs := rfl
@[simp] theorem advance_pc : (s.advance).pc = nextPc s.pc := rfl
@[simp] theorem advance_imem : (s.advance).imem = s.imem := rfl
@[simp] theorem advance_dmem : (s.advance).dmem = s.dmem := rfl
@[simp] theorem advance_f : (s.advance).f = s.f := rfl
@[simp] theorem advance_d : (s.advance).d = s.d := rfl
@[simp] theorem advance_e : (s.advance).e = s.e := rfl
@[simp] theorem advance_m : (s.advance).m = s.m := rfl
@[simp] theorem advance_w : (s.advance).w = s.w := rfl
@[simp] theorem advance_cnt : (s.advance).cnt = s.cnt := rfl
@[simp] theorem advance_bypass : (s.advance).bypass = s.bypass := rfl
@[simp] theorem advance_ptab : (s.advance).ptab = s.ptab := rfl
@[simp] theorem advance_cycle : (s.advance).cycle = s.cycle := rfl
@[simp] theorem advance_status : (s.advance).status = s.status := rfl
@[simp] theorem advance_stored : (s.advance).stored = s.stored := rfl

@[simp] theorem setDmem_cfg (x : Memory) : (s.setDmem x).cfg = s.cfg := rfl
@[simp] theorem setDmem_regs (x : Memory) : (s.setDmem x).regs = s.regs := rfl
@[simp] theorem setDmem_pc (x : Memory) : (s.setDmem x).pc = s.pc := rfl
@[simp] theorem setDmem_imem (x : Memory) : (s.setDmem x).imem = s.imem := rfl
@[simp] theorem setDmem_dmem (x : Memory) : (s.setDmem x).dmem = x := rfl
@[simp] theorem setDmem_f (x : Memory) : (s.setDmem x).f = s.f := rfl
@[simp] theorem setDmem_d (x : Memory) : (s.setDmem x).d = s.d := rfl
@[simp] theorem setDmem_e (x : Memory) : (s.setDmem x).e = s.e := rfl
@[simp] theorem setDmem_m (x : Memory) : (s.setDmem x).m = s.m := rfl
@[simp] theorem setDmem_w (x : Memory) : (s.setDmem x).w = s.w := rfl
@[simp] theorem setDmem_cnt (x : Memory) : (s.setDmem x).cnt = s.cnt := rfl
@[simp] theorem setDmem_bypass (x : Memory) : (s.setDmem x).bypass = s.bypass := rfl
@[simp] theorem setDmem_ptab (x : Memory) : (s.setDmem x).ptab = s.ptab := rfl
@[simp] theorem setDmem_cycle (x : Memory) : (s.setDmem x).cycle = s.cycle := rfl
@[simp] theorem setDmem_status (x : Memory) : (s.setDmem x).status = s.status := rfl
@[simp] theorem setDmem_stored (x : Memory) : (s.setDmem x).stored = s.stored := rfl

@[simp] theorem noteStore_cfg (a : Word) : (s.noteStore a).cfg = s.cfg := rfl
@[simp] theorem noteStore_regs (a : Word) : (s.noteStore a).regs = s.regs := rfl
@[simp] theorem noteStore_pc (a : Word) : (s.noteStore a).pc = s.pc := rfl
@[simp] theorem noteStore_imem (a : Word) : (s.noteStore a).imem = s.imem := rfl
@[simp] theorem noteStore_dmem (a : Word) : (s.noteStore a).dmem = s.dmem := rfl
@[simp] theorem noteStore_f (a : Word) : (s.noteStore a).f = s.f := rfl
@[simp] theorem noteStore_d (a : Word) : (s.noteStore a).d = s.d := rfl
@[simp] theorem noteStore_e (a : Word) : (s.noteStore a).e = s.e := rfl
@[simp] theorem noteStore_m (a : Word) : (s.noteStore a).m = s.m := rfl
@[simp] theorem noteStore_w (a : Word) : (s.noteStore a).w = s.w := rfl
@[simp] theorem noteStore_cnt (a : Word) : (s.noteStore a).cnt = s.cnt := rfl
@[simp] theorem noteStore_bypass (a : Word) : (s.noteStore a).bypass = s.bypass := rfl
@[simp] theorem noteStore_ptab (a : Word) : (s.noteStore a).ptab = s.ptab := rfl
@[simp] theorem noteStore_cycle (a : Word) : (s.noteStore a).cycle = s.cycle := rfl
@[simp] theorem noteStore_status (a : Word) : (s.noteStore a).status = s.status := rfl
@[simp] theorem noteStore_stored (a : Word) : (s.noteStore a).stored = insertIndex s.stored (wordIndex a) := rfl

@[simp] theorem haltStep_cfg : (s.haltStep).cfg = s.cfg := rfl
@[simp] theorem haltStep_regs : (s.haltStep).regs = s.regs := rfl
@[simp] theorem haltStep_pc : (s.haltStep).pc = s.pc := rfl
@[simp] theorem haltStep_imem : (s.haltStep).imem = s.imem := rfl
@[simp] theorem haltStep_dmem : (s.haltStep).dmem = s.dmem := rfl
@[simp] theorem haltStep_f : (s.haltStep).f = { s.f with halted := true } := rfl
@[simp] theorem haltStep_d : (s.haltStep).d = s.d := rfl
@[simp] theorem haltStep_e : (s.haltStep).e = s.e := rfl
@[simp] theorem haltStep_m : (s.haltStep).m = s.m := rfl
@[simp] theorem haltStep_w : (s.haltStep).w = s.w := rfl
@[simp] theorem haltStep_cnt : (s.haltStep).cnt = s.cnt := rfl
@[simp] theorem haltStep_bypass : (s.haltStep).bypass = s.bypass := rfl
@[simp] theorem haltStep_ptab : (s.haltStep).ptab = s.ptab := rfl
@[simp] theorem haltStep_cycle : (s.haltStep).cycle = s.cycle := rfl
@[simp] theorem haltStep_status : (s.haltStep).status = .halted := rfl
@[simp] theorem haltStep_stored : (s.haltStep).stored = s.stored := rfl

@[simp] theorem trainBranch_cfg (b : Bool) : (s.trainBranch b).cfg = s.cfg := rfl
@[simp] theorem trainBranch_regs (b : Bool) : (s.trainBranch b).regs = s.regs := rfl
@[simp] theorem trainBranch_pc (b : Bool) : (s.trainBranch b).pc = s.pc := rfl
@[simp] theorem trainBranch_imem (b : Bool) : (s.trainBranch b).imem = s.imem := rfl
@[simp] theorem trainBranch_dmem (b : Bool) : (s.trainBranch b).dmem = s.dmem := rfl
@[simp] theorem trainBranch_f (b : Bool) : (s.trainBranch b).f = s.f := rfl
@[simp] theorem trainBranch_d (b : Bool) : (s.trainBranch b).d = s.d := rfl
@[simp] theorem trainBranch_e (b : Bool) : (s.trainBranch b).e = s.e := rfl
@[simp] theorem trainBranch_m (b : Bool) : (s.trainBranch b).m = s.m := rfl
@[simp] theorem trainBranch_w (b : Bool) : (s.trainBranch b).w = s.w := rfl
@[simp] theorem trainBranch_cnt (b : Bool) : (s.trainBranch b).cnt = s.cnt := rfl
@[simp] theorem trainBranch_bypass (b : Bool) : (s.trainBranch b).bypass = s.bypass := rfl
@[simp] theorem trainBranch_ptab (b : Bool) : (s.trainBranch b).ptab =
    updatePredictor s.cfg s.ptab s.pc (predict s.cfg s.ptab s.pc) b := rfl
@[simp] theorem trainBranch_cycle (b : Bool) : (s.trainBranch b).cycle = s.cycle := rfl
@[simp] theorem trainBranch_status (b : Bool) : (s.trainBranch b).status = s.status := rfl
@[simp] theorem trainBranch_stored (b : Bool) : (s.trainBranch b).stored = s.stored := rfl

@[simp] theorem placeWord_cfg (n x : Nat) : (s.placeWord n x).cfg = s.cfg := rfl
@[simp] theorem placeWord_regs (n x : Nat) : (s.placeWord n x).regs = s.regs := rfl
@[simp] theorem placeWord_pc (n x : Nat) : (s.placeWord n x).pc = s.pc := rfl
@[simp] theorem placeWord_imem (n x : Nat) : (s.placeWord n x).imem =
    s.imem.writeWord (wordIndex s.pc) (BitVec.ofNat 32 (x % 2 ^ n)) 0b1111#4 := rfl
@[simp] theorem placeWord_dmem (n x : Nat) : (s.placeWord n x).dmem = s.dmem := rfl
@[simp] theorem placeWord_f (n x : Nat) : (s.placeWord n x).f = s.f := rfl
@[simp] theorem placeWord_d (n x : Nat) : (s.placeWord n x).d = s.d := rfl
@[simp] theorem placeWord_e (n x : Nat) : (s.placeWord n x).e = s.e := rfl
@[simp] theorem placeWord_m (n x : Nat) : (s.placeWord n x).m = s.m := rfl
@[simp] theorem placeWord_w (n x : Nat) : (s.placeWord n x).w = s.w := rfl
@[simp] theorem placeWord_cnt (n x : Nat) : (s.placeWord n x).cnt = s.cnt := rfl
@[simp] theorem placeWord_bypass (n x : Nat) : (s.placeWord n x).bypass = s.bypass := rfl
@[simp] theorem placeWord_ptab (n x : Nat) : (s.placeWord n x).ptab = s.ptab := rfl
@[simp] theorem placeWord_cycle (n x : Nat) : (s.placeWord n x).cycle = s.cycle := rfl
@[simp] theorem placeWord_status (n x : Nat) : (s.placeWord n x).status = .running := rfl
@[simp] theorem placeWord_stored (n x : Nat) : (s.placeWord n x).stored =
    s.stored.filter (fun i => i != wordIndex s.pc) := rfl

@[simp] theorem restart_cfg : (s.restart).cfg = s.cfg := rfl
@[simp] theorem restart_regs : (s.restart).regs = s.regs := rfl
@[simp] theorem restart_pc : (s.restart).pc = s.pc := rfl
@[simp] theorem restart_imem : (s.restart).imem = s.imem := rfl
@[simp] theorem restart_dmem : (s.restart).dmem = s.dmem := rfl
@[simp] theorem restart_f : (s.restart).f =
    { pc := s.f.pc, redirValid := decide (s.status = .running), redirTarget := s.pc, stall := false, halted := !decide (s.status = .running) } := rfl
@[simp] theorem restart_d : (s.restart).d = .bubble := rfl
@[simp] theorem restart_e : (s.restart).e = .bubble := rfl
@[simp] theorem restart_m : (s.restart).m = .bubble := rfl
@[simp] theorem restart_w : (s.restart).w = .bubble := rfl
@[simp] theorem restart_cnt : (s.restart).cnt = Vector.replicate 32 0#2 := rfl
@[simp] theorem restart_bypass : (s.restart).bypass = .empty := rfl
@[simp] theorem restart_ptab : (s.restart).ptab = s.ptab := rfl
@[simp] theorem restart_cycle : (s.restart).cycle = s.cycle := rfl
@[simp] theorem restart_status : (s.restart).status = s.status := rfl
@[simp] theorem restart_stored : (s.restart).stored = s.stored := rfl

end Sys2Proof.Machine.State
end

