-- ==== Sys2Proof/Laws/Registers.lean ====
section
/-! SUPPORT. Reading a register after each update (10_state.md R30). -/

namespace Sys2Proof.Machine

@[simp] theorem State.x_zero (s : State) : s.x 0#5 = 0#32 := rfl

theorem State.x_congr {s t : State} (h : s.regs = t.regs) (r : Reg) : s.x r = t.x r := by
  simp only [State.x, h]

/-- A write to x0 has no effect. -/
@[simp] theorem RegFile.write_zero (regs : RegFile) (v : Word) : regs.write 0#5 v = regs := rfl

@[simp] theorem State.writeReg_zero (s : State) (v : Word) : s.writeReg 0#5 v = s := rfl

/-- Reading any register of a written file. -/
theorem State.x_writeReg (s : State) (r q : Reg) (v : Word) :
    (s.writeReg r v).x q = if q = r ∧ q ≠ 0#5 then v else s.x q := by
  unfold State.x
  by_cases hq : q = 0#5
  · simp [hq]
  · by_cases hr : r = 0#5
    · subst hr
      simp [hq]
    · have key : (q = r) ↔ (r.toNat = q.toNat) := by rw [BitVec.toNat_inj, eq_comm]
      simp only [hq, if_false, writeReg_regs, RegFile.write, hr, Vector.getElem_set, key, ne_eq,
        not_false_eq_true, and_true]

@[simp] theorem State.x_setPc (s : State) (a : Word) (q : Reg) : (s.setPc a).x q = s.x q := rfl
@[simp] theorem State.x_advance (s : State) (q : Reg) : s.advance.x q = s.x q := rfl
@[simp] theorem State.x_setDmem (s : State) (m : Memory) (q : Reg) : (s.setDmem m).x q = s.x q := rfl
@[simp] theorem State.x_noteStore (s : State) (a : Word) (q : Reg) : (s.noteStore a).x q = s.x q := rfl
@[simp] theorem State.x_haltStep (s : State) (q : Reg) : s.haltStep.x q = s.x q := rfl
@[simp] theorem State.x_trainBranch (s : State) (b : Bool) (q : Reg) : (s.trainBranch b).x q = s.x q := rfl
@[simp] theorem State.x_restart (s : State) (q : Reg) : s.restart.x q = s.x q := rfl

/-- A write never touches x0's slot. -/
theorem RegFile.write_slot_zero (regs : RegFile) (r : Reg) (v : Word) : (regs.write r v)[0] = regs[0] := by
  unfold RegFile.write
  by_cases hr : r = 0#5
  · simp [hr]
  · have h0 : r.toNat ≠ 0 := fun h => hr (BitVec.eq_of_toNat_eq h)
    simp [hr, h0]

end Sys2Proof.Machine
end

