-- ==== Sys2Proof/Laws/Ops.lean ====
section
/-! SUPPORT. One lemma per shared operation of the meanings, saying once what it answers: when it has a next state and
which, and when it stops and how. -/

namespace Sys2Proof.Machine

/-! ### The address check (42_load_store.md R251) -/

theorem accessCheck_eq_none {cfg : Config} {addr : Word} {n : Nat} :
    accessCheck cfg addr n = none ↔ addr.toNat % n = 0 ∧ addr.toNat < 4 * cfg.memWords := by
  rw [← inRange_iff]
  unfold accessCheck
  by_cases h : addr.toNat % n = 0 <;> by_cases hr : inRange cfg addr = true <;> simp [h, hr]

theorem accessCheck_misaligned {cfg : Config} {addr : Word} {n : Nat} (h : addr.toNat % n ≠ 0) :
    accessCheck cfg addr n = some .misalignedAccess := by
  simp [accessCheck, h]

theorem accessCheck_outOfRange {cfg : Config} {addr : Word} {n : Nat} (h : addr.toNat % n = 0)
    (hr : 4 * cfg.memWords ≤ addr.toNat) : accessCheck cfg addr n = some .accessOutOfRange := by
  have : ¬ inRange cfg addr = true := by rw [inRange_iff]; omega
  simp [accessCheck, h, this]

/-! ### Alignment of a target (43_control_transfer.md R284) -/

theorem targetMisaligned_eq (a : Word) : targetMisaligned a = decide (a.toNat % 4 ≠ 0) := by
  unfold targetMisaligned
  rw [Bool.eq_iff_iff, bne_iff_ne, decide_eq_true_eq, ne_eq, ne_eq, ← BitVec.toNat_inj]
  simp [BitVec.extractLsb'_toNat]

/-! ### Results -/

theorem mapNext_eq_next {g : State → State} {r : Result} {t : State} (h : mapNext g r = .next t) :
    ∃ u, r = .next u ∧ t = g u := by
  cases r with
  | next u => exact ⟨u, rfl, by injection h with h; exact h.symm⟩
  | fault f => cases h
  | refused f => cases h

theorem retire_eq_next {s t : State} {rd : Reg} {v : Word} (h : s.retire rd v = .next t) :
    t = (s.writeReg rd v).advance := by
  injection h with h; exact h.symm

/-- A load has a next state exactly when its check passes. -/
theorem loadWith_cases (k : MemKind) (i : Instr) (rd rs1 : Reg) (imm : BitVec 12) (s : State) :
    (∃ f, accessCheck s.cfg (effectiveAddress (s.x rs1) imm) k.width = some f ∧
      loadWith k i rd rs1 imm s = s.raise f (effectiveAddress (s.x rs1) imm) (encode i)) ∨
    (accessCheck s.cfg (effectiveAddress (s.x rs1) imm) k.width = none ∧
      loadWith k i rd rs1 imm s =
        .next (s.writeReg rd (s.dmem.load (effectiveAddress (s.x rs1) imm) k)).advance) := by
  unfold loadWith
  cases h : accessCheck s.cfg (effectiveAddress (s.x rs1) imm) k.width with
  | none => exact .inr ⟨rfl, by simp [h]⟩
  | some f => exact .inl ⟨f, rfl, by simp [h]⟩

theorem storeWith_cases (k : MemKind) (i : Instr) (rs1 rs2 : Reg) (imm : BitVec 12) (s : State) :
    (∃ f, accessCheck s.cfg (effectiveAddress (s.x rs1) imm) k.width = some f ∧
      storeWith k i rs1 rs2 imm s = s.raise f (effectiveAddress (s.x rs1) imm) (encode i)) ∨
    (accessCheck s.cfg (effectiveAddress (s.x rs1) imm) k.width = none ∧
      storeWith k i rs1 rs2 imm s =
        .next ((s.setDmem (s.dmem.store (effectiveAddress (s.x rs1) imm) k.width (s.x rs2))).noteStore
          (effectiveAddress (s.x rs1) imm)).advance) := by
  unfold storeWith
  cases h : accessCheck s.cfg (effectiveAddress (s.x rs1) imm) k.width with
  | none => exact .inr ⟨rfl, by simp [h]⟩
  | some f => exact .inl ⟨f, rfl, by simp [h]⟩

theorem branchWith_cases (op : AluOp) (flip : Bool) (i : Instr) (rs1 rs2 : Reg) (off : BitVec 13)
    (s : State) :
    let taken := branchTaken (alu op (s.x rs1) (s.x rs2)) flip
    (taken = true ∧ targetMisaligned (branchTarget s.pc off) = true ∧
      branchWith op flip i rs1 rs2 off s = s.raise .misalignedTarget (branchTarget s.pc off) (encode i)) ∨
    (¬ (taken = true ∧ targetMisaligned (branchTarget s.pc off) = true) ∧
      branchWith op flip i rs1 rs2 off s =
        .next ((s.trainBranch taken).setPc (if taken then branchTarget s.pc off else nextPc s.pc))) := by
  intro taken
  by_cases h : taken = true ∧ targetMisaligned (branchTarget s.pc off) = true
  · exact .inl ⟨h.1, h.2, by simp only [branchWith]; rw [if_pos (by simpa using h)]⟩
  · exact .inr ⟨h, by simp only [branchWith]; rw [if_neg (by simpa using h)]⟩

theorem jumpWith_cases (i : Instr) (rd : Reg) (res : Word) (s : State) :
    (targetMisaligned (jumpTarget res) = true ∧
      jumpWith i rd res s = s.raise .misalignedTarget (jumpTarget res) (encode i)) ∨
    (targetMisaligned (jumpTarget res) = false ∧
      jumpWith i rd res s = .next ((s.writeReg rd (nextPc s.pc)).setPc (jumpTarget res))) := by
  unfold jumpWith
  cases h : targetMisaligned (jumpTarget res)
  · exact .inr ⟨rfl, by simp [h]⟩
  · exact .inl ⟨rfl, by simp [h]⟩

/-- The five things an executed instruction can do to the state. -/
inductive Effect (s : State) : State → Prop where
  | retire (rd : Reg) (v : Word) : Effect s (s.writeReg rd v).advance
  | store (addr : Word) (n : Nat) (v : Word) (hn : accessWidth n)
      (hc : accessCheck s.cfg addr n = none) :
      Effect s ((s.setDmem (s.dmem.store addr n v)).noteStore addr).advance
  | branch (taken : Bool) (target : Word) (ht : taken = true → targetMisaligned target = false) :
      Effect s ((s.trainBranch taken).setPc (if taken then target else nextPc s.pc))
  | jump (rd : Reg) (target : Word) (ht : targetMisaligned target = false) :
      Effect s ((s.writeReg rd (nextPc s.pc)).setPc target)
  | halt : Effect s s.haltStep

theorem loadWith_effect {k : MemKind} {i : Instr} {rd rs1 : Reg} {imm : BitVec 12} {s t : State}
    (h : loadWith k i rd rs1 imm s = .next t) : Effect s t := by
  rcases loadWith_cases k i rd rs1 imm s with ⟨f, _, e⟩ | ⟨_, e⟩ <;> rw [e] at h
  · cases h
  · injection h with h; subst h; exact .retire _ _

theorem storeWith_effect {k : MemKind} {i : Instr} {rs1 rs2 : Reg} {imm : BitVec 12} {s t : State}
    (hk : accessWidth k.width) (h : storeWith k i rs1 rs2 imm s = .next t) : Effect s t := by
  rcases storeWith_cases k i rs1 rs2 imm s with ⟨f, _, e⟩ | ⟨hc, e⟩ <;> rw [e] at h
  · cases h
  · injection h with h; subst h; exact .store _ _ _ hk hc

theorem branchWith_effect {op : AluOp} {flip : Bool} {i : Instr} {rs1 rs2 : Reg} {off : BitVec 13}
    {s t : State} (h : branchWith op flip i rs1 rs2 off s = .next t) : Effect s t := by
  rcases branchWith_cases op flip i rs1 rs2 off s with ⟨_, _, e⟩ | ⟨hc, e⟩ <;> rw [e] at h
  · cases h
  · injection h with h; subst h
    exact .branch _ _ fun ht => by
      cases hm : targetMisaligned (branchTarget s.pc off)
      · rfl
      · exact absurd ⟨ht, hm⟩ hc

theorem jumpWith_effect {i : Instr} {rd : Reg} {res : Word} {s t : State}
    (h : jumpWith i rd res s = .next t) : Effect s t := by
  rcases jumpWith_cases i rd res s with ⟨_, e⟩ | ⟨hm, e⟩ <;> rw [e] at h
  · cases h
  · injection h with h; subst h; exact .jump _ _ hm

theorem retire_effect {rd : Reg} {v : Word} {s t : State} (h : s.retire rd v = .next t) : Effect s t := by
  rw [retire_eq_next h]; exact .retire _ _

/-- Whatever instruction executes, its next state is one of the five effects. -/
theorem exec_effect {i : Instr} {s t : State} (h : exec i s = .next t) : Effect s t := by
  cases i with
  | add | sub | sll | slt | sltu | xor | srl | sra | or | and => exact retire_effect h
  | addi | slti | sltiu | xori | ori | andi | slli | srli | srai => exact retire_effect h
  | lui | auipc => exact retire_effect h
  | lb | lh | lw | lbu | lhu => exact loadWith_effect h
  | sb => exact storeWith_effect (.inl rfl) h
  | sh => exact storeWith_effect (.inr (.inl rfl)) h
  | sw => exact storeWith_effect (.inr (.inr rfl)) h
  | beq | bne | blt | bge | bltu | bgeu => exact branchWith_effect h
  | jal | jalr => exact jumpWith_effect h
  | ecall | ebreak => injection h with h; subst h; exact .halt

end Sys2Proof.Machine
end

