-- ==== Sys2Proof/Laws/PerInstr.lean ====
section
/-! SUPPORT. The family `TableRow`: an instruction's encoding fits the row of spec/opcode_table.json that bears its
mnemonic (30_encoding.md R149). One lemma per constructor of Instr. -/

namespace Sys2Proof.Laws.TableRow

/-- Some row of the table bears the instruction's mnemonic and its word matches that row. -/
def Statement (i : Instr) : Prop :=
  ∃ r ∈ opcodeTable, r.mnemonic = i.mnemonic ∧ r.fits (encode i) = true

/-- The row is given; what is left is the masked word. -/
theorem of_mask {i : Instr} (n : String) (p m : Word) (hn : n = i.mnemonic) (hp : encode i &&& m = p)
    (hm : OpcodeRow.mk n p m ∈ opcodeTable) : Statement i :=
  ⟨_, hm, hn, by simpa [OpcodeRow.fits] using hp⟩

theorem add (rd rs1 rs2 : Reg) : Statement (.add rd rs1 rs2) :=
  of_mask "ADD" 0x00000033#32 0xfe00707f#32 rfl
    ((encodeR_and_mask _ _ _ _ _ _).trans (by decide)) (by decide)

theorem sub (rd rs1 rs2 : Reg) : Statement (.sub rd rs1 rs2) :=
  of_mask "SUB" 0x40000033#32 0xfe00707f#32 rfl
    ((encodeR_and_mask _ _ _ _ _ _).trans (by decide)) (by decide)

theorem sll (rd rs1 rs2 : Reg) : Statement (.sll rd rs1 rs2) :=
  of_mask "SLL" 0x00001033#32 0xfe00707f#32 rfl
    ((encodeR_and_mask _ _ _ _ _ _).trans (by decide)) (by decide)

theorem slt (rd rs1 rs2 : Reg) : Statement (.slt rd rs1 rs2) :=
  of_mask "SLT" 0x00002033#32 0xfe00707f#32 rfl
    ((encodeR_and_mask _ _ _ _ _ _).trans (by decide)) (by decide)

theorem sltu (rd rs1 rs2 : Reg) : Statement (.sltu rd rs1 rs2) :=
  of_mask "SLTU" 0x00003033#32 0xfe00707f#32 rfl
    ((encodeR_and_mask _ _ _ _ _ _).trans (by decide)) (by decide)

theorem xor (rd rs1 rs2 : Reg) : Statement (.xor rd rs1 rs2) :=
  of_mask "XOR" 0x00004033#32 0xfe00707f#32 rfl
    ((encodeR_and_mask _ _ _ _ _ _).trans (by decide)) (by decide)

theorem srl (rd rs1 rs2 : Reg) : Statement (.srl rd rs1 rs2) :=
  of_mask "SRL" 0x00005033#32 0xfe00707f#32 rfl
    ((encodeR_and_mask _ _ _ _ _ _).trans (by decide)) (by decide)

theorem sra (rd rs1 rs2 : Reg) : Statement (.sra rd rs1 rs2) :=
  of_mask "SRA" 0x40005033#32 0xfe00707f#32 rfl
    ((encodeR_and_mask _ _ _ _ _ _).trans (by decide)) (by decide)

theorem or (rd rs1 rs2 : Reg) : Statement (.or rd rs1 rs2) :=
  of_mask "OR" 0x00006033#32 0xfe00707f#32 rfl
    ((encodeR_and_mask _ _ _ _ _ _).trans (by decide)) (by decide)

theorem and (rd rs1 rs2 : Reg) : Statement (.and rd rs1 rs2) :=
  of_mask "AND" 0x00007033#32 0xfe00707f#32 rfl
    ((encodeR_and_mask _ _ _ _ _ _).trans (by decide)) (by decide)

theorem addi (rd rs1 : Reg) (imm : BitVec 12) : Statement (.addi rd rs1 imm) :=
  of_mask "ADDI" 0x00000013#32 0x0000707f#32 rfl
    ((encodeI_and_mask _ _ _ _ _).trans (by decide)) (by decide)

theorem slti (rd rs1 : Reg) (imm : BitVec 12) : Statement (.slti rd rs1 imm) :=
  of_mask "SLTI" 0x00002013#32 0x0000707f#32 rfl
    ((encodeI_and_mask _ _ _ _ _).trans (by decide)) (by decide)

theorem sltiu (rd rs1 : Reg) (imm : BitVec 12) : Statement (.sltiu rd rs1 imm) :=
  of_mask "SLTIU" 0x00003013#32 0x0000707f#32 rfl
    ((encodeI_and_mask _ _ _ _ _).trans (by decide)) (by decide)

theorem xori (rd rs1 : Reg) (imm : BitVec 12) : Statement (.xori rd rs1 imm) :=
  of_mask "XORI" 0x00004013#32 0x0000707f#32 rfl
    ((encodeI_and_mask _ _ _ _ _).trans (by decide)) (by decide)

theorem ori (rd rs1 : Reg) (imm : BitVec 12) : Statement (.ori rd rs1 imm) :=
  of_mask "ORI" 0x00006013#32 0x0000707f#32 rfl
    ((encodeI_and_mask _ _ _ _ _).trans (by decide)) (by decide)

theorem andi (rd rs1 : Reg) (imm : BitVec 12) : Statement (.andi rd rs1 imm) :=
  of_mask "ANDI" 0x00007013#32 0x0000707f#32 rfl
    ((encodeI_and_mask _ _ _ _ _).trans (by decide)) (by decide)

theorem slli (rd rs1 : Reg) (shamt : BitVec 5) : Statement (.slli rd rs1 shamt) :=
  of_mask "SLLI" 0x00001013#32 0xfe00707f#32 rfl
    ((encodeR_and_mask _ _ _ _ _ _).trans (by decide)) (by decide)

theorem srli (rd rs1 : Reg) (shamt : BitVec 5) : Statement (.srli rd rs1 shamt) :=
  of_mask "SRLI" 0x00005013#32 0xfe00707f#32 rfl
    ((encodeR_and_mask _ _ _ _ _ _).trans (by decide)) (by decide)

theorem srai (rd rs1 : Reg) (shamt : BitVec 5) : Statement (.srai rd rs1 shamt) :=
  of_mask "SRAI" 0x40005013#32 0xfe00707f#32 rfl
    ((encodeR_and_mask _ _ _ _ _ _).trans (by decide)) (by decide)

theorem lui (rd : Reg) (imm : BitVec 20) : Statement (.lui rd imm) :=
  of_mask "LUI" 0x00000037#32 0x0000007f#32 rfl
    ((encodeU_and_mask _ _ _).trans (by decide)) (by decide)

theorem auipc (rd : Reg) (imm : BitVec 20) : Statement (.auipc rd imm) :=
  of_mask "AUIPC" 0x00000017#32 0x0000007f#32 rfl
    ((encodeU_and_mask _ _ _).trans (by decide)) (by decide)

theorem lb (rd rs1 : Reg) (imm : BitVec 12) : Statement (.lb rd rs1 imm) :=
  of_mask "LB" 0x00000003#32 0x0000707f#32 rfl
    ((encodeI_and_mask _ _ _ _ _).trans (by decide)) (by decide)

theorem lh (rd rs1 : Reg) (imm : BitVec 12) : Statement (.lh rd rs1 imm) :=
  of_mask "LH" 0x00001003#32 0x0000707f#32 rfl
    ((encodeI_and_mask _ _ _ _ _).trans (by decide)) (by decide)

theorem lw (rd rs1 : Reg) (imm : BitVec 12) : Statement (.lw rd rs1 imm) :=
  of_mask "LW" 0x00002003#32 0x0000707f#32 rfl
    ((encodeI_and_mask _ _ _ _ _).trans (by decide)) (by decide)

theorem lbu (rd rs1 : Reg) (imm : BitVec 12) : Statement (.lbu rd rs1 imm) :=
  of_mask "LBU" 0x00004003#32 0x0000707f#32 rfl
    ((encodeI_and_mask _ _ _ _ _).trans (by decide)) (by decide)

theorem lhu (rd rs1 : Reg) (imm : BitVec 12) : Statement (.lhu rd rs1 imm) :=
  of_mask "LHU" 0x00005003#32 0x0000707f#32 rfl
    ((encodeI_and_mask _ _ _ _ _).trans (by decide)) (by decide)

theorem sb (rs1 rs2 : Reg) (imm : BitVec 12) : Statement (.sb rs1 rs2 imm) :=
  of_mask "SB" 0x00000023#32 0x0000707f#32 rfl
    ((encodeS_and_mask _ _ _ _).trans (by decide)) (by decide)

theorem sh (rs1 rs2 : Reg) (imm : BitVec 12) : Statement (.sh rs1 rs2 imm) :=
  of_mask "SH" 0x00001023#32 0x0000707f#32 rfl
    ((encodeS_and_mask _ _ _ _).trans (by decide)) (by decide)

theorem sw (rs1 rs2 : Reg) (imm : BitVec 12) : Statement (.sw rs1 rs2 imm) :=
  of_mask "SW" 0x00002023#32 0x0000707f#32 rfl
    ((encodeS_and_mask _ _ _ _).trans (by decide)) (by decide)

theorem beq (rs1 rs2 : Reg) (off : BitVec 13) : Statement (.beq rs1 rs2 off) :=
  of_mask "BEQ" 0x00000063#32 0x0000707f#32 rfl
    ((encodeB_and_mask _ _ _ _).trans (by decide)) (by decide)

theorem bne (rs1 rs2 : Reg) (off : BitVec 13) : Statement (.bne rs1 rs2 off) :=
  of_mask "BNE" 0x00001063#32 0x0000707f#32 rfl
    ((encodeB_and_mask _ _ _ _).trans (by decide)) (by decide)

theorem blt (rs1 rs2 : Reg) (off : BitVec 13) : Statement (.blt rs1 rs2 off) :=
  of_mask "BLT" 0x00004063#32 0x0000707f#32 rfl
    ((encodeB_and_mask _ _ _ _).trans (by decide)) (by decide)

theorem bge (rs1 rs2 : Reg) (off : BitVec 13) : Statement (.bge rs1 rs2 off) :=
  of_mask "BGE" 0x00005063#32 0x0000707f#32 rfl
    ((encodeB_and_mask _ _ _ _).trans (by decide)) (by decide)

theorem bltu (rs1 rs2 : Reg) (off : BitVec 13) : Statement (.bltu rs1 rs2 off) :=
  of_mask "BLTU" 0x00006063#32 0x0000707f#32 rfl
    ((encodeB_and_mask _ _ _ _).trans (by decide)) (by decide)

theorem bgeu (rs1 rs2 : Reg) (off : BitVec 13) : Statement (.bgeu rs1 rs2 off) :=
  of_mask "BGEU" 0x00007063#32 0x0000707f#32 rfl
    ((encodeB_and_mask _ _ _ _).trans (by decide)) (by decide)

theorem jal (rd : Reg) (off : BitVec 21) : Statement (.jal rd off) :=
  of_mask "JAL" 0x0000006f#32 0x0000007f#32 rfl
    ((encodeJ_and_mask _ _).trans (by decide)) (by decide)

theorem jalr (rd rs1 : Reg) (imm : BitVec 12) : Statement (.jalr rd rs1 imm) :=
  of_mask "JALR" 0x00000067#32 0x0000707f#32 rfl
    ((encodeI_and_mask _ _ _ _ _).trans (by decide)) (by decide)

theorem ecall : Statement (.ecall) :=
  of_mask "ECALL" 0x00000073#32 0xffffffff#32 rfl
    (by decide) (by decide)

theorem ebreak : Statement (.ebreak) :=
  of_mask "EBREAK" 0x00100073#32 0xffffffff#32 rfl
    (by decide) (by decide)

end Sys2Proof.Laws.TableRow
end

