-- ==== Sys2Proof/Laws/Pipeline.lean ====
section
/-! SUPPORT. What one tick leaves in each register, what it can answer, and the small laws of the counters, the
predictor table and the stage functions. -/

namespace Sys2Proof.Machine

/-! ### One tick, register by register (47_pipeline.md R390, R408–R413) -/

section
variable {s : State} (h : s.status = .running)
include h

theorem nextTick_cfg : s.nextTick.cfg = s.cfg := by simp [State.nextTick, h]
theorem nextTick_regs : s.nextTick.regs = writeBackRegs s.regs s.w := by simp [State.nextTick, h]
theorem nextTick_pc : s.nextTick.pc = writeBackPc s.pc s.w := by simp [State.nextTick, h]
theorem nextTick_imem : s.nextTick.imem = s.imem := by simp [State.nextTick, h]
theorem nextTick_dmem : s.nextTick.dmem = memoryCommit s.dmem s.m := by simp [State.nextTick, h]
theorem nextTick_f : s.nextTick.f = s.selection.f := by simp [State.nextTick, h]
theorem nextTick_d : s.nextTick.d = s.selection.d := by simp [State.nextTick, h]
theorem nextTick_e : s.nextTick.e = s.selection.e := by simp [State.nextTick, h]
theorem nextTick_m : s.nextTick.m = (executeStage s.cfg s.e).next := by simp [State.nextTick, h]
theorem nextTick_w : s.nextTick.w = memoryStage s.dmem s.m := by simp [State.nextTick, h]
theorem nextTick_ptab : s.nextTick.ptab = writeBackPredictor s.cfg s.ptab s.w := by
  simp [State.nextTick, h]
theorem nextTick_cycle : s.nextTick.cycle = s.cycle + 1 := by simp [State.nextTick, h]
theorem nextTick_status : s.nextTick.status = s.tickStatus := by simp [State.nextTick, h]
theorem nextTick_stored : s.nextTick.stored = writeBackStored s.stored s.w := by
  simp [State.nextTick, h]
theorem nextTick_bypass : s.nextTick.bypass =
    { pendD := s.selection.e.dst, bypE := (executeStage s.cfg s.e).next.dst
      bypM := (memoryStage s.dmem s.m).dst } := by simp [State.nextTick, h]

end

/-- A run that has ended does not change (44_system_halt.md R317). -/
theorem nextTick_of_ended {s : State} (h : s.status ≠ .running) : s.nextTick = s := by
  simp [State.nextTick, h]

/-- If a tick has a next state, the run had ended and nothing changes, or every register took its next
value and neither an assertion nor a marker ended the run. -/
theorem tick_eq_next {s t : State} (h : tick s = .next t) :
    (s.status ≠ .running ∧ t = s) ∨
    (s.status = .running ∧ s.tickSelfModified = false ∧ t = s.nextTick ∧
      (s.tickStatus = .running ∨ s.tickStatus = .halted)) := by
  unfold tick at h
  by_cases hs : s.status = .running
  · refine .inr ⟨hs, ?_⟩
    rw [if_neg (not_not.2 hs)] at h
    cases hm : s.tickSelfModified with
    | true => rw [hm] at h; cases h
    | false =>
      rw [hm] at h
      simp only [Bool.false_eq_true, if_false] at h
      cases ht : s.tickStatus with
      | running => rw [ht] at h; injection h with h; exact ⟨rfl, h.symm, .inl rfl⟩
      | halted => rw [ht] at h; injection h with h; exact ⟨rfl, h.symm, .inr rfl⟩
      | faulted f => rw [ht] at h; cases h
  · rw [if_pos hs] at h
    injection h with h
    exact .inl ⟨hs, h.symm⟩

/-! ### Bubbles -/

@[simp] theorem dst_bubble : Entry.bubble.dst = none := rfl
@[simp] theorem executeStage_bubble (cfg : Config) :
    executeStage cfg .bubble = { next := .bubble, flush := none, exfault := none } := rfl
@[simp] theorem memoryStage_bubble (m : Memory) : memoryStage m .bubble = .bubble := rfl
@[simp] theorem writeBackRegs_bubble (r : RegFile) : writeBackRegs r .bubble = r := rfl
@[simp] theorem writeBackPc_bubble (a : Word) : writeBackPc a .bubble = a := rfl

/-! ### Counters (45_occupancy_bypass.md R333, R334) -/

@[simp] theorem count_zero (cnt : Counters) : cnt.count 0#5 = 0#2 := rfl
@[simp] theorem put_zero (cnt : Counters) (v : BitVec 2) : cnt.put 0#5 v = cnt := rfl

theorem count_put (cnt : Counters) (r q : Reg) (v : BitVec 2) :
    (cnt.put r v).count q = if q = r ∧ q ≠ 0#5 then v else cnt.count q := by
  unfold Counters.count Counters.put
  by_cases hq : q = 0#5
  · simp [hq]
  · by_cases hr : r = 0#5
    · subst hr; simp [hq]
    · have key : (q = r) ↔ (r.toNat = q.toNat) := by rw [BitVec.toNat_inj, eq_comm]
      simp only [hq, if_false, hr, Vector.getElem_set, key, ne_eq, not_false_eq_true, and_true]

/-! ### The predictor table (46_branch_predictor.md R374–R377) -/

/-- Every level after an update: only the indexed entry of the adaptive policy moves. -/
theorem level_updatePredictor {cfg : Config} {t : PredTable} (h : sparseWf predReset t = true) (a : Word)
    (p b : Bool) (j : Nat) : (updatePredictor cfg t a p b).level j =
      if cfg.predictor = .adaptive ∧ j = predIndex cfg a then moveLevel (t.level j) b else t.level j := by
  unfold updatePredictor
  cases hp : cfg.predictor with
  | alwaysTaken | neverTaken => simp
  | adaptive =>
    simp only [PredTable.level, sparseGet_put _ h, true_and]
    by_cases hj : j = predIndex cfg a <;> simp [hj]

theorem updatePredictor_wf {cfg : Config} {t : PredTable} (h : sparseWf predReset t = true) (a : Word)
    (p b : Bool) : sparseWf predReset (updatePredictor cfg t a p b) = true := by
  unfold updatePredictor
  cases cfg.predictor with
  | alwaysTaken | neverTaken => exact h
  | adaptive => exact sparsePut_wf _ h _ _

end Sys2Proof.Machine
end

