-- ==== Sys2Proof/Laws/Step.lean ====
section
/-! SUPPORT. What one sequential step can do, said once. -/

namespace Sys2Proof.Machine

/-- If a step has a next state, the run had ended and nothing changes, or the instruction at the pc ran and
the pipeline was restarted behind it. -/
theorem step_eq_next {s t : State} (h : step s = .next t) :
    (s.status ≠ .running ∧ t = s) ∨
    (s.status = .running ∧ s.selfModified = false ∧
      ∃ w i u, s.fetchWord = some w ∧ decode w = .ok i ∧ exec i s = .next u ∧ t = u.restart) := by
  unfold step State.fetchAndRun at h
  by_cases hs : s.status = .running
  · refine .inr ⟨hs, ?_⟩
    rw [if_neg (not_not.2 hs)] at h
    cases hm : s.selfModified with
    | true => rw [hm] at h; cases h
    | false =>
      rw [hm] at h
      simp only [Bool.false_eq_true, if_false] at h
      cases hw : s.fetchWord with
      | none => rw [hw] at h; cases h
      | some w =>
        rw [hw] at h
        simp only at h
        cases hd : decode w with
        | error e => rw [hd] at h; cases h
        | ok i =>
          rw [hd] at h
          obtain ⟨u, hu, rfl⟩ := mapNext_eq_next h
          exact ⟨rfl, w, i, u, rfl, hd, hu, rfl⟩
  · rw [if_pos hs] at h
    injection h with h
    exact .inl ⟨hs, h.symm⟩

end Sys2Proof.Machine
end

