-- ==== Sys2Proof/Tests/Slice0.lean ====
section
/-! SUPPORT. The model's own tests. Expected values are the vectors of 95_test_vectors.md and the examples beside
the rules (named in each comment), or hand calculation from the rules. The witnesses at the end show, for each
statement with hypotheses, concrete values that meet them. -/

namespace Sys2Proof.Tests

open Sys2Proof.Machine Sys2Proof.Spec

/-! ### Helpers -/

/-- The next state of a result; a stop gives reset. -/
def after : Result → State
  | .next s => s
  | _ => State.reset

def isNext : Result → Bool
  | .next _ => true
  | _ => false

def faultIs (f : Fault) : Result → Bool
  | .fault g => decide (g = f)
  | _ => false

def refusedAs (r : Refusal) : Result → Bool
  | .refused q => decide (q = r)
  | _ => false

def decodesTo (w : Word) (i : Instr) : Bool :=
  match decode w with
  | .ok j => decide (j = i)
  | .error _ => false

def rejected (w : Word) : Bool :=
  match decode w with
  | .ok _ => false
  | .error e => decide (e = .noMatch w)

/-- Reset with x1 and x2 set, the pc at `pc`, and `w` where the next step fetches. -/
def start (x1 x2 pc w : Word) : State :=
  { (State.reset.writeReg 1#5 x1).writeReg 2#5 x2 with pc := pc }.withFetchWord 32 w.toNat

/-- The load and store vectors' start: x1 = 0x12345678, x2 = 0x100, word 0x40 = 0x8899AABB. -/
def memStart (w : Word) : State :=
  (start 0x12345678#32 0x100#32 0#32 w).setDmem (Memory.writeWord [] 0x40 0x8899AABB#32 0b1111#4)

/-- A program at word 0 of a small memory. -/
def prog (image : List Word) : State :=
  after (boot { memWords := 32, resetPc := 0#32, predictor := .neverTaken, predBits := 4 } image [])

def ticked : Nat → State → State
  | 0, s => s
  | n + 1, s => ticked n s.nextTick

/-! ### WellFormed: each check refuses an ill-formed term (R130, R132) -/

theorem test_wf_beq_odd : (Instr.beq 1 2 7).wf = false := by decide
theorem test_wf_bne_odd : (Instr.bne 1 2 1).wf = false := by decide
theorem test_wf_blt_odd : (Instr.blt 1 2 0xFFF).wf = false := by decide
theorem test_wf_bge_odd : (Instr.bge 1 2 9).wf = false := by decide
theorem test_wf_bltu_odd : (Instr.bltu 1 2 3).wf = false := by decide
theorem test_wf_bgeu_odd : (Instr.bgeu 1 2 5).wf = false := by decide
theorem test_wf_jal_odd : (Instr.jal 1 0x101).wf = false := by decide

/-! ### Decoding: words written out in the spec, every constructor -/

/-- I1–I10. -/
theorem test_decode_op :
    decodesTo 0x002081B3#32 (.add 3 1 2) ∧ decodesTo 0x402081B3#32 (.sub 3 1 2)
    ∧ decodesTo 0x002091B3#32 (.sll 3 1 2) ∧ decodesTo 0x0020A1B3#32 (.slt 3 1 2)
    ∧ decodesTo 0x0020B1B3#32 (.sltu 3 1 2) ∧ decodesTo 0x0020C1B3#32 (.xor 3 1 2)
    ∧ decodesTo 0x0020D1B3#32 (.srl 3 1 2) ∧ decodesTo 0x4020D1B3#32 (.sra 3 1 2)
    ∧ decodesTo 0x0020E1B3#32 (.or 3 1 2) ∧ decodesTo 0x0020F1B3#32 (.and 3 1 2) := by decide

/-- I11–I21. -/
theorem test_decode_op_imm :
    decodesTo 0xFFF00093#32 (.addi 1 0 0xFFF) ∧ decodesTo 0xFFF12193#32 (.slti 3 2 0xFFF)
    ∧ decodesTo 0xFFF13193#32 (.sltiu 3 2 0xFFF) ∧ decodesTo 0xFFF14193#32 (.xori 3 2 0xFFF)
    ∧ decodesTo 0x0F016193#32 (.ori 3 2 0x0F0) ∧ decodesTo 0x0FF17193#32 (.andi 3 2 0x0FF)
    ∧ decodesTo 0x01F11193#32 (.slli 3 2 31) ∧ decodesTo 0x00415193#32 (.srli 3 2 4)
    ∧ decodesTo 0x40415193#32 (.srai 3 2 4) := by decide

/-- I22, I23. -/
theorem test_decode_upper :
    decodesTo 0x123452B7#32 (.lui 5 0x12345) ∧ decodesTo 0xFFFFF317#32 (.auipc 6 0xFFFFF) := by decide

/-- L1–L5. -/
theorem test_decode_load :
    decodesTo 0x00110183#32 (.lb 3 2 1) ∧ decodesTo 0x00211183#32 (.lh 3 2 2)
    ∧ decodesTo 0x00012183#32 (.lw 3 2 0) ∧ decodesTo 0x00314183#32 (.lbu 3 2 3)
    ∧ decodesTo 0x00015183#32 (.lhu 3 2 0) := by decide

/-- L6–L8; and the sb of R124 with all of its split immediate, 0xFE208FA3 = sb x2, -1(x1). -/
theorem test_decode_store :
    decodesTo 0x001100A3#32 (.sb 2 1 1) ∧ decodesTo 0x00111123#32 (.sh 2 1 2)
    ∧ decodesTo 0x00112023#32 (.sw 2 1 0) ∧ decodesTo 0xFE208FA3#32 (.sb 1 2 0xFFF) := by decide

/-- CT1–CT6. -/
theorem test_decode_branch :
    decodesTo 0x00208463#32 (.beq 1 2 8) ∧ decodesTo 0xFE209CE3#32 (.bne 1 2 0x1FF8)
    ∧ decodesTo 0x0020C863#32 (.blt 1 2 16) ∧ decodesTo 0x0020D863#32 (.bge 1 2 16)
    ∧ decodesTo 0x0020E863#32 (.bltu 1 2 16) ∧ decodesTo 0x0020F863#32 (.bgeu 1 2 16) := by decide

/-- R291, R292 and RET. -/
theorem test_decode_jump :
    decodesTo 0x100000EF#32 (.jal 1 0x100) ∧ decodesTo 0x003280E7#32 (.jalr 1 5 3)
    ∧ decodesTo 0x00008067#32 (.jalr 0 1 0) := by decide

/-- R311, R312. -/
theorem test_decode_halt : decodesTo 0x00000073#32 .ecall ∧ decodesTo 0x00100073#32 .ebreak := by decide

/-- The immediate corners of the control-transfer vectors: −2048 (its imm_B is 0xFFFFF800), −1048576, 1048574. -/
theorem test_decode_offset_corners :
    decodesTo 0x800000E3#32 (.beq 0 0 0x1800) ∧ immB 0x1800 = 0xFFFFF800#32
    ∧ decodesTo 0x80000FEF#32 (.jal 31 0x100000) ∧ immJ 0x100000 = 0xFFF00000#32
    ∧ decodesTo 0x7FFFF0EF#32 (.jal 1 0xFFFFE) ∧ immJ 0xFFFFE = 0x000FFFFE#32 := by decide

/-- DEC1–DEC12, and ECALL with rd = 1 (R311), the AMO space and custom-1 to custom-3. -/
theorem test_rejects :
    [0x00000000#32, 0xFFFFFFFF#32, 0x02000033#32, 0x02001093#32, 0x4200D093#32, 0x00009067#32, 0x00003003#32,
      0x00006003#32, 0x00007003#32, 0x00003023#32, 0x00004023#32, 0x00002063#32, 0x00003063#32,
      0x0000000F#32, 0x0000100F#32, 0x00200073#32, 0x30200073#32, 0x10500073#32, 0xC0002573#32,
      0x0000000B#32, 0x000000F3#32, 0x0000202F#32, 0x0000002B#32, 0x0000005B#32, 0x0000007B#32].all
        rejected = true := by decide

/-- A word is truncated below four bytes (R120); the bytes are little-endian (R88). -/
theorem test_decode_bytes :
    (match decodeBytes [0xB3#8, 0x81#8, 0x20#8, 0x00#8, 0x99#8] with
      | .ok (i, rest) => decide (i = .add 3 1 2 ∧ rest = [0x99#8])
      | .error _ => false) = true
    ∧ decodeTableWord 32 0x002081B3 = some (.add 3 1 2) ∧ decodeTableWord 32 0 = none := by decide

/-! ### One step: the vectors of 95_test_vectors.md -/

/-- S1–S3, A5, A12, A14. -/
theorem test_alu :
    alu .add 0xFFFFFFFF#32 1#32 = 0#32 ∧ alu .sra 0x80000000#32 1#32 = 0xC0000000#32
    ∧ alu .sltu 0xFFFFFFFF#32 1#32 = 0#32 ∧ alu .sll 1#32 0x20#32 = 1#32
    ∧ alu .sra 0x80000000#32 0x1F#32 = 0xFFFFFFFF#32 ∧ alu .sra 0x80000000#32 0x21#32 = 0xC0000000#32 := by decide

theorem test_add : (after (step (start 0xFFFFFFFF#32 1#32 0#32 0x002081B3#32))).x 3 = 0#32 := by decide
theorem test_sub : (after (step (start 5#32 7#32 0#32 0x402081B3#32))).x 3 = 0xFFFFFFFE#32 := by decide
theorem test_sll : (after (step (start 0x12345678#32 0x24#32 0#32 0x002091B3#32))).x 3 = 0x23456780#32 := by decide
theorem test_slt : (after (step (start 0xFFFFFFFF#32 0#32 0#32 0x0020A1B3#32))).x 3 = 1#32 := by decide
theorem test_sltu : (after (step (start 0xFFFFFFFF#32 1#32 0#32 0x0020B1B3#32))).x 3 = 0#32 := by decide
theorem test_xor :
    (after (step (start 0xF0F0F0F0#32 0xFF00FF00#32 0#32 0x0020C1B3#32))).x 3 = 0x0FF00FF0#32 := by decide

theorem test_srl : (after (step (start 0x80000000#32 1#32 0#32 0x0020D1B3#32))).x 3 = 0x40000000#32 := by decide
theorem test_sra : (after (step (start 0x80000000#32 1#32 0#32 0x4020D1B3#32))).x 3 = 0xC0000000#32 := by decide
theorem test_or :
    (after (step (start 0xF0F0F0F0#32 0x0F0F0000#32 0#32 0x0020E1B3#32))).x 3 = 0xFFFFF0F0#32 := by decide
theorem test_and :
    (after (step (start 0xF0F0F0F0#32 0xFF00FF00#32 0#32 0x0020F1B3#32))).x 3 = 0xF000F000#32 := by decide
/-- I12: the most negative imm_I. -/
theorem test_addi : (after (step (start 0#32 0#32 0#32 0x80000093#32))).x 1 = 0xFFFFF800#32 := by decide
theorem test_slti : (after (step (start 0#32 0x80000000#32 0#32 0xFFF12193#32))).x 3 = 1#32 := by decide
theorem test_sltiu : (after (step (start 0#32 5#32 0#32 0xFFF13193#32))).x 3 = 1#32 := by decide
theorem test_xori : (after (step (start 0#32 0xFFFF#32 0#32 0xFFF14193#32))).x 3 = 0xFFFF0000#32 := by decide
theorem test_ori : (after (step (start 0#32 0xF00#32 0#32 0x0F016193#32))).x 3 = 0xFF0#32 := by decide
theorem test_andi : (after (step (start 0#32 0x12345678#32 0#32 0x0FF17193#32))).x 3 = 0x78#32 := by decide
theorem test_slli : (after (step (start 0#32 1#32 0#32 0x01F11193#32))).x 3 = 0x80000000#32 := by decide
theorem test_srli : (after (step (start 0#32 0x80000000#32 0#32 0x00415193#32))).x 3 = 0x08000000#32 := by decide
theorem test_srai : (after (step (start 0#32 0x80000000#32 0#32 0x40415193#32))).x 3 = 0xF8000000#32 := by decide
theorem test_lui : (after (step (start 0#32 0#32 0#32 0x123452B7#32))).x 5 = 0x12345000#32 := by decide
/-- R234: at pc 0x10. -/
theorem test_auipc : (after (step (start 0#32 0#32 0x10#32 0xFFFFF317#32))).x 6 = 0xFFFFF010#32 := by decide
/-- I25: x0 stays 0 and the pc advances. -/
theorem test_hint :
    (after (step (start 5#32 3#32 0#32 0x00208033#32))).x 0 = 0#32
    ∧ (after (step (start 5#32 3#32 0#32 0x00208033#32))).pc = 4#32 := by decide

theorem test_lb : (after (step (memStart 0x00110183#32))).x 3 = 0xFFFFFFAA#32 := by decide
theorem test_lh : (after (step (memStart 0x00211183#32))).x 3 = 0xFFFF8899#32 := by decide
theorem test_lw : (after (step (memStart 0x00012183#32))).x 3 = 0x8899AABB#32 := by decide
theorem test_lbu : (after (step (memStart 0x00314183#32))).x 3 = 0x88#32 := by decide
theorem test_lhu : (after (step (memStart 0x00015183#32))).x 3 = 0xAABB#32 := by decide
theorem test_sb : (after (step (memStart 0x001100A3#32))).dmem.readWord 0x40 = 0x889978BB#32 := by decide
theorem test_sh : (after (step (memStart 0x00111123#32))).dmem.readWord 0x40 = 0x5678AABB#32 := by decide
theorem test_sw : (after (step (memStart 0x00112023#32))).dmem.readWord 0x40 = 0x12345678#32 := by decide
/-- L11's access: lw x2, 0(x1) with x1 = 1 at pc 4. -/
theorem test_lw_misaligned :
    faultIs (.misalignedAccess { faultAddr := 1#32, pc := 4#32, word := 0x0000A103#32 })
      (step (start 1#32 0#32 4#32 0x0000A103#32)) := by decide
/-- R258: lw x3, -4(x2) with x2 = 0. -/
theorem test_lw_out_of_range :
    faultIs (.accessOutOfRange { faultAddr := 0xFFFFFFFC#32, pc := 0#32, word := 0xFFC12183#32 })
      (step (start 0#32 0#32 0#32 0xFFC12183#32)) := by decide
/-- L12's access: sh x1, 1(x0) at pc 4. -/
theorem test_sh_misaligned :
    faultIs (.misalignedAccess { faultAddr := 1#32, pc := 4#32, word := 0x001010A3#32 })
      (step (start 1#32 0#32 4#32 0x001010A3#32)) := by decide

/-- R285–R290's examples at pc 0x20. -/
theorem test_beq : (after (step (start 3#32 3#32 0x20#32 0x00208463#32))).pc = 0x28#32 := by decide
theorem test_bne :
    (after (step (start 1#32 2#32 0x20#32 0xFE209CE3#32))).pc = 0x18#32
    ∧ (after (step (start 2#32 2#32 0x20#32 0xFE209CE3#32))).pc = 0x24#32 := by decide
theorem test_blt : (after (step (start 0x80000000#32 0#32 0x20#32 0x0020C863#32))).pc = 0x30#32 := by decide
theorem test_bge :
    (after (step (start 0x80000000#32 0x80000000#32 0x20#32 0x0020D863#32))).pc = 0x30#32
    ∧ (after (step (start 0xFFFFFFFF#32 1#32 0x20#32 0x0020D863#32))).pc = 0x24#32 := by decide
theorem test_bltu :
    (after (step (start 1#32 0xFFFFFFFF#32 0x20#32 0x0020E863#32))).pc = 0x30#32
    ∧ (after (step (start 0xFFFFFFFF#32 1#32 0x20#32 0x0020E863#32))).pc = 0x24#32 := by decide
theorem test_bgeu : (after (step (start 0xFFFFFFFF#32 1#32 0x20#32 0x0020F863#32))).pc = 0x30#32 := by decide
/-- CT13, CT14: a misaligned target faults only when taken. -/
theorem test_branch_misaligned :
    faultIs (.misalignedTarget { faultAddr := 6#32, pc := 0#32, word := 0x00000363#32 })
      (step (start 0#32 0#32 0#32 0x00000363#32))
    ∧ (after (step (start 1#32 2#32 0#32 0x00208363#32))).pc = 4#32 := by decide
theorem test_jal :
    (after (step (start 0#32 0#32 8#32 0x100000EF#32))).x 1 = 0xC#32
    ∧ (after (step (start 0#32 0#32 8#32 0x100000EF#32))).pc = 0x108#32 := by decide
/-- CT10's jalr x3, 0(x1): bit 0 of 9 is dropped; and rd = rs1 uses the old x1 (jalr x1, 0(x1)). -/
theorem test_jalr :
    (after (step (start 9#32 0#32 4#32 0x000081E7#32))).pc = 8#32
    ∧ (after (step (start 0x100#32 0#32 4#32 0x000080E7#32))).pc = 0x100#32
    ∧ (after (step (start 0x100#32 0#32 4#32 0x000080E7#32))).x 1 = 8#32 := by decide
/-- CT12's jal x0, 6 at pc 4. -/
theorem test_jal_misaligned :
    faultIs (.misalignedTarget { faultAddr := 0xA#32, pc := 4#32, word := 0x0060006F#32 })
      (step (start 0#32 0#32 4#32 0x0060006F#32)) := by decide
theorem test_ecall :
    (after (step (start 0#32 0#32 4#32 0x00000073#32))).status = .halted
    ∧ (after (step (start 0#32 0#32 4#32 0x00000073#32))).pc = 4#32 := by decide
theorem test_ebreak :
    (after (step (start 0#32 0#32 4#32 0x00100073#32))).status = .halted
    ∧ (after (step (start 0#32 0#32 4#32 0x00100073#32))).f.halted = true := by decide
/-- DEC13's second word, and DEC14's fetch past the end. -/
theorem test_fetch_stops :
    faultIs (.decodeFault { faultAddr := 4#32, pc := 4#32, word := 0#32 }) (step (start 0#32 0#32 4#32 0#32))
    ∧ faultIs (.fetchFault { faultAddr := 0x1000#32, pc := 0x1000#32, word := 0#32 })
      (step { State.reset with pc := 0x1000#32 }) := by decide
/-- I7: the step after a store over the next instruction is refused (sw x1, 4(x0) at pc 0). -/
theorem test_self_modifying :
    refusedAs (.selfModifying 4#32) (step (after (step (start 0x13#32 0#32 0#32 0x00102223#32)))) := by decide

/-! ### The predictor, the counters and the cycle machine -/

def adaptive4 : Config := { Config.standard with predictor := .adaptive }

/-- BP1, BP2, BP5: three taken updates saturate; a not-taken one from 0 stays; 0x14 trains entry 4. -/
theorem test_predictor :
    (updatePredictor adaptive4 (updatePredictor adaptive4 (updatePredictor adaptive4 (updatePredictor adaptive4 []
      0x14#32 false true) 0x14#32 false true) 0x14#32 false true) 0x14#32 false true).level 4 = 3#2
    ∧ (updatePredictor adaptive4 [] 0x14#32 true false).level 4 = 0#2
    ∧ (updatePredictor adaptive4 [] 0x14#32 false true).level 4 = 1#2
    ∧ (updatePredictor adaptive4 [] 0x14#32 false true).level 5 = 0#2
    ∧ predict adaptive4 [(4, 2#2)] 0x04#32 = true := by decide

/-- OB1: addi x1,x0,5; add x2,x1,x1. `cnt[1]` is 1 and the add stalls in cycle 2, then issues with x1 from M. -/
def ob1 : State := prog [0x00500093#32, 0x00108133#32, 0x00100073#32]

theorem test_ob1_stall : (ticked 2 ob1).cnt.count 1 = 1#2 ∧ decodeStage (ticked 2 ob1) = .stall := by decide
theorem test_ob1_forward : (ticked 4 ob1).e.v1 = 5#32 ∧ (ticked 4 ob1).e.v2 = 5#32 ∧ (ticked 4 ob1).w.valid := by decide

/-- CT8 under NEVER_TAKEN: the illegal word at 4 is in D when the branch resolves in cycle 2, and is squashed. -/
def ct8 : State := prog [0x00000463#32, 0xFFFFFFFF#32, 0x00100293#32, 0x00100073#32]

theorem test_ct8_squash :
    (ticked 2 ct8).d.word = 0xFFFFFFFF#32 ∧ (ticked 3 ct8).d.valid = false ∧ (ticked 3 ct8).f.redirTarget = 8#32
    ∧ (ticked 3 ct8).f.halted = false := by decide

/-- H2: ecall alone commits in cycle 4 with one record without a destination, and the run takes 5 cycles. -/
theorem test_h2 :
    (match Machine.run 10 (prog [0x00000073#32]) with
      | .ok (s, r) => decide (s.cycle = 5 ∧ r = .halted)
      | .error _ => false) = true
    ∧ (ticked 4 (prog [0x00000073#32])).traceRecord.map (fun r => (r.pc, r.word, r.rd))
        = some (0#32, 0x00000073#32, none) := by decide

/-! ### Witnesses: values that meet each statement's hypotheses, at the boundaries of its clauses -/

/-- x1 = 0x1000 is the first address past data memory, x2 = 0xFFE is two below it. -/
def edge : State := start 0x1000#32 0xFFE#32 0#32 0#32

/-- Every OP, OP-IMM, shift and upper form completes on reset, rd = 0 among them. -/
theorem witness_computational :
    (∀ p ∈ opForms 3 1 2, isNext (exec p.1 State.reset)) ∧ (∀ p ∈ immForms 3 1 0x800, isNext (exec p.1 State.reset))
    ∧ (∀ p ∈ shiftForms 3 1 31, isNext (exec p.1 State.reset)) ∧ isNext (exec (.lui 5 1) State.reset)
    ∧ isNext (exec (.auipc 0 1) State.reset) := by decide

/-- ShiftImmediateInstructionsExecute: words with a wrong `w[31:25]` (DEC4, DEC5). -/
theorem witness_shift_words :
    opcodeOf 0x02001093#32 = 0b0010011#7 ∧ funct3Of 0x02001093#32 = 0b001#3 ∧ bits 0x02001093#32 25 7 ≠ 0b0000000#7
    ∧ opcodeOf 0x4200D093#32 = 0b0010011#7 ∧ funct3Of 0x4200D093#32 = 0b101#3
    ∧ bits 0x4200D093#32 25 7 ≠ 0b0000000#7 ∧ bits 0x4200D093#32 25 7 ≠ 0b0100000#7 := by decide

/-- HintsOnlyAdvanceThePc. -/
theorem witness_hint : Instr.addi 0 5 1 ∈ (immForms 0 5 1).map Prod.fst := by decide

/-- LoadsReadOrFault: the last word, halfword and byte inside; misaligned below and past the end; the first
address outside. -/
theorem witness_load_clauses :
    (let a := effectiveAddress (edge.x 1) 0xFFC;
      a.toNat % 4 = 0 ∧ a.toNat < 4 * edge.cfg.memWords ∧ isNext (exec (.lw 3 1 0xFFC) edge))
    ∧ (let a := effectiveAddress (edge.x 2) 0;
      a.toNat % 2 = 0 ∧ a.toNat < 4 * edge.cfg.memWords ∧ isNext (exec (.lh 3 2 0) edge)
        ∧ isNext (exec (.lhu 3 2 0) edge) ∧ a.toNat % 4 ≠ 0)
    ∧ (let a := effectiveAddress (edge.x 2) 1;
      a.toNat % 1 = 0 ∧ a.toNat < 4 * edge.cfg.memWords ∧ isNext (exec (.lb 0 2 1) edge)
        ∧ isNext (exec (.lbu 3 2 1) edge) ∧ a.toNat % 2 ≠ 0)
    ∧ (effectiveAddress (edge.x 1) 2).toNat % 4 ≠ 0
    ∧ (let a := effectiveAddress (edge.x 1) 0;
      a.toNat % 4 = 0 ∧ 4 * edge.cfg.memWords ≤ a.toNat) := by decide

/-- StoresWriteOrFault: likewise, on a canonical memory. -/
theorem witness_store_clauses :
    edge.dmem.wf = true
    ∧ (let a := effectiveAddress (edge.x 1) 0xFFC;
      a.toNat % 4 = 0 ∧ a.toNat < 4 * edge.cfg.memWords ∧ isNext (exec (.sw 1 2 0xFFC) edge))
    ∧ (let a := effectiveAddress (edge.x 2) 0;
      a.toNat % 2 = 0 ∧ a.toNat < 4 * edge.cfg.memWords ∧ isNext (exec (.sh 2 1 0) edge) ∧ a.toNat % 4 ≠ 0)
    ∧ (let a := effectiveAddress (edge.x 2) 1;
      a.toNat % 1 = 0 ∧ a.toNat < 4 * edge.cfg.memWords ∧ isNext (exec (.sb 2 1 1) edge) ∧ a.toNat % 2 ≠ 0)
    ∧ (effectiveAddress (edge.x 1) 3).toNat % 2 ≠ 0
    ∧ (let a := effectiveAddress (edge.x 1) 0;
      a.toNat % 1 = 0 ∧ 4 * edge.cfg.memWords ≤ a.toNat) := by decide

/-- MixedWidthViewsOfAWord: the last word of the address space. -/
theorem witness_mixed_width : Memory.wf [] = true ∧ (0xFFFFFFFC#32 : Word).toNat % 4 = 0 := by decide

/-- LoadAfterStoreReadsTheStoredWord. -/
theorem witness_load_after_store :
    edge.dmem.wf = true ∧ isNext (exec (.sw 1 2 0xFFC) edge)
    ∧ isNext (exec (.lw 3 1 0xFFC) (after (exec (.sw 1 2 0xFFC) edge))) ∧ (3#5 : Reg) ≠ 0#5 := by decide

/-- BranchesTransferOrFault: taken and aligned, not taken and misaligned (both complete), taken and misaligned;
every branch completes. -/
theorem witness_branch_clauses :
    (∀ p ∈ branchForms edge 1 1 8, ¬ (p.2.1 = true ∧ (BitVec.ofInt 32 (edge.pc.toNat + (8 : BitVec 13).toInt)).toNat % 4 ≠ 0))
    ∧ (∀ p ∈ branchForms edge 1 1 8, isNext (exec p.1 edge))
    ∧ decide (edge.x 1 ≠ edge.x 1) = false
    ∧ decide (edge.x 1 = edge.x 1) = true ∧ (BitVec.ofInt 32 (edge.pc.toNat + (6 : BitVec 13).toInt)).toNat % 4 ≠ 0
    ∧ sparseWf predReset edge.ptab = true := by decide

/-- JumpsLinkAndTransferOrFault. -/
theorem witness_jump_clauses :
    (BitVec.ofNat 32 (2 * ((BitVec.ofInt 32 (edge.pc.toNat + (8 : BitVec 21).toInt)).toNat / 2))).toNat % 4 = 0
    ∧ (BitVec.ofNat 32 (2 * ((BitVec.ofInt 32 ((edge.x 1).toNat + (1 : BitVec 12).toInt)).toNat / 2))).toNat % 4 = 0
    ∧ isNext (exec (.jal 1 8) edge) ∧ isNext (exec (.jalr 0 1 1) edge)
    ∧ (BitVec.ofNat 32 (2 * ((BitVec.ofInt 32 (edge.pc.toNat + (6 : BitVec 21).toInt)).toNat / 2))).toNat % 4 ≠ 0
    ∧ (BitVec.ofNat 32 (2 * ((BitVec.ofInt 32 ((edge.x 2).toNat + (1 : BitVec 12).toInt)).toNat / 2))).toNat % 4 ≠ 0 := by
  decide

/-- HaltInstructionsEndTheRun and EndedRunsDoNotChange. -/
theorem witness_ended :
    isNext (exec .ecall edge) ∧ isNext (exec .ebreak edge) ∧ (after (exec .ecall edge)).status ≠ .running
    ∧ ({ edge with status := .faulted (.hazardViolation .flushAndStall) } : State).status ≠ .running := by decide

/-- StepRunsTheDecodedInstruction, at the last word of instruction memory. -/
theorem witness_step_runs :
    let s := start 5#32 3#32 0xFFC#32 0x002081B3#32
    s.status = .running ∧ s.selfModified = false ∧ s.pc.toNat < 4 * s.cfg.memWords
    ∧ (match decodeBytes [s.imem.byte 0xFFC, s.imem.byte 0xFFD, s.imem.byte 0xFFE, s.imem.byte 0xFFF] with
      | .ok (i, rest) => decide (i = .add 3 1 2 ∧ rest = [])
      | .error _ => false) = true ∧ 4 * (s.pc.toNat / 4) = 0xFFC := by decide

/-- StepStopsWhereNothingDecodes: a stored-over word; the first address outside; an undecodable word. -/
theorem witness_step_stops :
    (let s := { State.reset with stored := [0] };
      s.status = .running ∧ s.pc.toNat / 4 ∈ s.stored)
    ∧ (let s := { State.reset with pc := 0x1000#32 };
      s.status = .running ∧ s.pc.toNat / 4 ∉ s.stored ∧ 4 * s.cfg.memWords ≤ s.pc.toNat)
    ∧ (let s := State.reset;
      s.status = .running ∧ s.pc.toNat / 4 ∉ s.stored ∧ s.pc.toNat < 4 * s.cfg.memWords
        ∧ rejected (s.imem.readWord (s.pc.toNat / 4))) := by decide

/-- A rejected word decodes to no instruction. -/
theorem rejected_ne {w : Word} (h : rejected w = true) (i : Instr) : decode w ≠ .ok i := by
  intro hd
  simp [rejected, hd] at h

/-- StepStopsWhereNothingDecodes, its last clause's premise in full. -/
theorem witness_undecodable (i : Instr) :
    decode (State.reset.imem.readWord (State.reset.pc.toNat / 4)) ≠ .ok i := rejected_ne (by decide) i

/-- StepKeepsTheInvariant, OnlyStoresWriteMemory and ResultsIgnorePredictorAndPipeline: a step, a tick and an
`exec` with a next state; a step that faults and one that is refused. -/
theorem witness_steps :
    (start 5#32 3#32 0#32 0x002081B3#32).inv = true ∧ isNext (step (start 5#32 3#32 0#32 0x002081B3#32))
    ∧ isNext (tick State.reset) ∧ (State.reset.m.live && State.reset.m.c.mem.isStore) = false
    ∧ (Instr.bundle (.add 3 1 2)).mem.isStore = false ∧ isNext (exec (.add 3 1 2) State.reset)
    ∧ faultIs (.decodeFault { faultAddr := 0#32, pc := 0#32, word := 0#32 }) (step State.reset)
    ∧ refusedAs (.selfModifying 0#32) (step { State.reset with stored := [0] }) := by decide

/-- DecodeInvertsEncode, EncodeInvertsDecode and DecodeAgreesWithTheOpcodeTable. -/
theorem witness_encoding :
    (Instr.beq 1 2 0x1000).wf = true ∧ (Instr.jal 31 0x100000).wf = true
    ∧ decodesTo (encode (.beq 1 2 0x1000)) (.beq 1 2 0x1000)
    ∧ (opcodeTable.any fun r => decide (0x002081B3#32 &&& r.mask = r.pattern) && decide (r.mnemonic = "ADD")) = true := by
  decide

/-- UnimplementedWordsAreRejected: one word for each clause. -/
theorem witness_unimplemented :
    opcodeOf 0x0000000F#32 = 0b0001111#7 ∧ opcodeOf 0x0000202F#32 = 0b0101111#7
    ∧ opcodeOf 0x0000000B#32 = 0b0001011#7 ∧ opcodeOf 0x0000007B#32 = 0b1111011#7
    ∧ (0x00000001#32 : Word).toNat % 4 ≠ 3
    ∧ opcodeOf 0x000000F3#32 = 0b1110011#7 ∧ 0x000000F3#32 ∉ haltWords := by decide

/-- BootLoadsTheImageIntoBothMemories: an image one word too long, and one of exactly MEM_WORDS. -/
theorem witness_boot :
    let cfg : Config := { memWords := 1, resetPc := 0#32, predictor := .adaptive, predBits := 32 }
    cfg.wf = true ∧ cfg.memWords < [0x13#32, 0x73#32].length ∧ [0x13#32].length ≤ cfg.memWords
    ∧ refusedAs (.imageTooLong 2) (boot cfg [0x13#32, 0x73#32] []) ∧ isNext (boot cfg [0x13#32] [7#32])
    ∧ 0 < ([0x13#32] ++ [7#32] : List Word).length ∧ 0 < cfg.memWords := by decide

/-- OccupancyCommitCounts: a success, a cancelled claim at 3, an overflow and an underflow. -/
theorem witness_occupancy :
    let full : Counters := Vector.replicate 32 3#2
    let none' : Counters := Vector.replicate 32 0#2
    (match occupancyCommit full (some 5) (some 5) with | .ok c => decide (c = full) | .error _ => false) = true
    ∧ (match occupancyCommit none' (some 5) none with | .ok c => decide (c.count 5 = 1#2) | .error _ => false) = true
    ∧ (match occupancyCommit full (some 5) (some 6) with
        | .error v => decide (v = .overflow 5) | .ok _ => false) = true
    ∧ (match occupancyCommit none' none (some 6) with
        | .error v => decide (v = .underflow 6) | .ok _ => false) = true := by decide

/-- AdaptiveEntriesSaturate and StaticPoliciesAreFixed. -/
theorem witness_policies :
    adaptive4.predictor = .adaptive ∧ sparseWf predReset ([(4, 2#2)] : PredTable) = true
    ∧ ({ Config.standard with predictor := .alwaysTaken } : Config).predictor = .alwaysTaken
    ∧ Config.standard.predictor = .neverTaken := by decide

/-- ControlTableRealisesTheRules: an entry that raises a fault and one that does not. -/
theorem witness_control_table :
    edge.status = .running
    ∧ (executeStage edge.cfg { ExecuteReg.bubble with valid := true, c := Instr.bundle (.lw 3 1 0), v1 := 0x1000#32 }).exfault
        = some (.accessOutOfRange, 0x1000#32)
    ∧ (executeStage edge.cfg { ExecuteReg.bubble with valid := true, c := Instr.bundle (.lw 3 1 0), v1 := 0xFFC#32 }).exfault
        = none := by decide

/-- FetchAddressSelection: each of the four cases has a running state whose tick has a next state. -/
theorem witness_fetch_address :
    (State.reset.f.redirValid = true ∧ isNext (tick State.reset))
    ∧ ((ticked 1 ob1).f.redirValid = false ∧ (ticked 1 ob1).f.stall = false ∧ isNext (tick (ticked 1 ob1)))
    ∧ ((ticked 3 ob1).f.stall = true ∧ isNext (tick (ticked 3 ob1)))
    ∧ ((ticked 2 (prog [0x00000073#32])).f.halted = true ∧ isNext (tick (ticked 2 (prog [0x00000073#32])))) := by decide

/-- ExecuteRedirectSteersFetch and SquashedInstructionsLeaveNoTrace: CT8 in cycle 2. -/
theorem witness_redirect :
    let s := ticked 2 ct8
    s.status = .running ∧ isNext (tick s) ∧ (executeStage s.cfg s.e).flush = some 8#32
    ∧ (executeStage s.cfg s.e).squash = true := by decide

/-- StallHoldsDecode: OB1 in cycle 2. -/
theorem witness_stall :
    let s := ticked 2 ob1
    s.status = .running ∧ isNext (tick s) ∧ decodeStage s = .stall ∧ (executeStage s.cfg s.e).squash = false := by
  decide

/-- DEC13: addi x1,x0,3; an illegal word. Its marker is in W in cycle 5. -/
def dec13 : State := prog [0x00300093#32, 0#32]

/-- MarkersEndTheRunUnchanged and CountersAreZeroAtTermination. -/
theorem witness_marker :
    let s := ticked 5 dec13
    s.status = .running ∧ s.w.valid = true ∧ s.w.fault = some .decodeFault ∧ s.violation = none
    ∧ s.tickSelfModified = false ∧ s.coherent = true ∧ s.nextTick.status ≠ .running := by decide

/-- TraceRecordsEachCommit: no entry; one with a destination; one without. -/
theorem witness_trace :
    State.reset.w.live = false
    ∧ ((ticked 4 ob1).w.live = true ∧ (ticked 4 ob1).w.c.rdValid = true ∧ (ticked 4 ob1).w.c.rd ≠ 0#5)
    ∧ ((ticked 4 (prog [0x00000073#32])).w.live = true ∧ (ticked 4 (prog [0x00000073#32])).w.c.rdValid = false) := by
  decide

/-- DrainedStatesAreCoherent and FirstCommitIsInTheFifthTick, whose step completes, faults and is refused. -/
theorem witness_drained :
    (ob1.inv = true ∧ ob1.drained = true ∧ ob1.status = .running ∧ isNext (step ob1))
    ∧ (State.reset.inv = true ∧ State.reset.drained = true
      ∧ faultIs (.decodeFault { faultAddr := 0#32, pc := 0#32, word := 0#32 }) (step State.reset))
    ∧ (let s := { State.reset with stored := [0] };
      s.inv = true ∧ s.drained = true ∧ refusedAs (.selfModifying 0#32) (step s)) := by decide

/-- TickKeepsCoherence, TickKeepsAssertedInvariants, NoAssertionFails, SomethingReachesWriteBack: OB1 in cycles 2
and 4, and a halt already latched. -/
theorem witness_coherent :
    (ticked 2 ob1).countersOk = true ∧ ((ticked 2 ob1).f.redirValid && (ticked 2 ob1).f.stall) = false
    ∧ (ticked 2 (prog [0x00000073#32])).f.halted = true ∧ isNext (tick (ticked 2 (prog [0x00000073#32])))
    ∧ (ticked 2 ob1).coherent = true ∧ isNext (tick (ticked 2 ob1)) ∧ (ticked 3 ob1).status = .running
    ∧ (ticked 4 ob1).coherent = true := by decide

/-- HazardTestReadsTheYoungestWrite: x1 forwarded from M in cycle 3, and x2 read from the file. -/
theorem witness_hazard :
    (ticked 3 ob1).coherent = true ∧ (ticked 3 ob1).bypass.bypE = some 1#5 ∧ (ticked 3 ob1).canRead 1 = some 5#32
    ∧ (ticked 3 ob1).canRead 2 = some 0#32 := by decide

/-- TickCommitsWhatStepExecutes: nothing in W; an entry whose step completes; one whose step faults; one whose
step is refused. -/
theorem witness_commits :
    (State.reset.coherent = true ∧ State.reset.w.valid = false)
    ∧ ((ticked 4 ob1).coherent = true ∧ (ticked 4 ob1).w.valid = true ∧ isNext (step (ticked 4 ob1)))
    ∧ ((ticked 5 dec13).coherent = true ∧ (ticked 5 dec13).w.valid = true
      ∧ faultIs (.decodeFault { faultAddr := 4#32, pc := 4#32, word := 0#32 }) (step (ticked 5 dec13)))
    ∧ (let s := { ticked 4 ob1 with stored := [0] };
      s.coherent = true ∧ s.w.valid = true ∧ refusedAs (.selfModifying 0#32) (step s)) := by decide

/-- CycleRunsRefineSequentialRuns: five ticks that go on, that fault and that are refused. -/
theorem witness_refinement :
    isNext (ticks 5 ob1)
    ∧ faultIs (.decodeFault { faultAddr := 0#32, pc := 0#32, word := 0#32 }) (ticks 5 State.reset)
    ∧ refusedAs (.selfModifying 0#32) (ticks 5 { State.reset with stored := [0] }) := by decide

/-- Two stores in flight: sw x1,0x40(x0); sw x1,0x44(x0). In cycle 4 the first is in W and has written, the
second is in M and has not (log 14). -/
def twoStores : State :=
  (prog [0x04102023#32, 0x04102223#32, 0x00100073#32]).writeReg 1#5 7#32

theorem test_store_memory_order :
    (ticked 4 twoStores).coherent = true ∧ (ticked 4 twoStores).w.valid = true
    ∧ (ticked 4 twoStores).dmem.readWord 0x10 = 7#32 ∧ (ticked 4 twoStores).dmem.readWord 0x11 = 0#32
    ∧ (ticked 5 twoStores).dmem.readWord 0x11 = 7#32
    ∧ (after (step twoStores)).dmem.readWord 0x11 = 0#32 := by decide

/-- OB3: lw x3,0x40(x0); add x4,x3,x3. The add stalls in cycles 2 and 3. -/
def ob3 : State := prog [0x04002183#32, 0x00318233#32, 0x00100073#32]

/-- StallsLastAtMostTwoCycles. -/
theorem witness_two_stalls :
    (ticked 2 ob3).coherent = true ∧ decodeStage (ticked 2 ob3) = .stall ∧ isNext (tick (ticked 2 ob3))
    ∧ decodeStage (ticked 3 ob3) = .stall ∧ isNext (tick (ticked 3 ob3)) ∧ decodeStage (ticked 4 ob3) ≠ .stall := by
  decide

/-- IssuedHaltCommits: ecall alone issues in cycle 1, and four ticks later the run has ended. -/
theorem witness_issued_halt :
    let s := ticked 1 (prog [0x00000073#32])
    s.coherent = true ∧ s.status = .running
    ∧ (match decodeStage s with | .issue e => e.c.halt | _ => false) = true
    ∧ (executeStage s.cfg s.e).squash = false ∧ isNext (ticks 4 s) := by decide

/-- BudgetedRunsResume: a budget of two ticks. -/
theorem witness_budget :
    (match Machine.run 2 ob1 with
      | .ok (t, r) => decide (r = .cycleBudgetExceeded ∧ t.cycle = 2)
      | .error _ => false) = true := by decide

end Sys2Proof.Tests
end

section
/-! Every step keeps the sequential machine's invariant (O19). Each conjunct of `State.inv` is shown kept by
each of the five effects an instruction can have, then by the restart behind it. -/

namespace Sys2Proof.Machine

/-! ### The record of stored words -/

theorem mem_insertIndex {l : List Nat} {i j : Nat} (h : j ∈ insertIndex l i) : j = i ∨ j ∈ l := by
  induction l with
  | nil => exact .inl (List.mem_singleton.1 h)
  | cons k t ih =>
    unfold insertIndex at h
    split_ifs at h with hlt heq
    · exact List.mem_cons.1 h
    · exact .inr h
    · rcases List.mem_cons.1 h with h | h
      · exact .inr (h ▸ List.mem_cons_self)
      · exact (ih h).imp id (List.mem_cons_of_mem _)

theorem risingBelow_cons {n i : Nat} {t : List Nat} :
    risingBelow n (i :: t) = true ↔ i < n ∧ (∀ j ∈ t, i < j) ∧ risingBelow n t = true := by
  simp only [risingBelow, Bool.and_eq_true, decide_eq_true_eq, List.all_eq_true, and_assoc]

/-- Adding an index in range keeps the list rising and in range. -/
theorem insertIndex_risingBelow {n : Nat} {l : List Nat} (h : risingBelow n l = true) {i : Nat}
    (hi : i < n) : risingBelow n (insertIndex l i) = true := by
  induction l with
  | nil => exact risingBelow_cons.2 ⟨hi, by simp, rfl⟩
  | cons k t ih =>
    obtain ⟨hk, hrise, ht⟩ := risingBelow_cons.1 h
    unfold insertIndex
    split_ifs with hlt heq
    · exact risingBelow_cons.2
        ⟨hi, List.forall_mem_cons.2 ⟨hlt, fun j hj => hlt.trans (hrise j hj)⟩, h⟩
    · exact h
    · refine risingBelow_cons.2 ⟨hk, fun j hj => ?_, ih ht⟩
      rcases mem_insertIndex hj with rfl | hj
      · omega
      · exact hrise j hj

/-! ### The predictor table -/

theorem predIndex_lt (cfg : Config) (a : Word) : predIndex cfg a < 2 ^ cfg.predBits :=
  Nat.mod_lt _ (Nat.two_pow_pos _)

/-- An update keeps every listed index inside the table (R374). -/
theorem updatePredictor_below {cfg : Config} {t : PredTable} (h : sparseBelow (2 ^ cfg.predBits) t = true)
    (a : Word) (p b : Bool) : sparseBelow (2 ^ cfg.predBits) (updatePredictor cfg t a p b) = true := by
  unfold updatePredictor
  cases cfg.predictor with
  | alwaysTaken | neverTaken => exact h
  | adaptive => exact sparsePut_below _ h (predIndex_lt cfg a) _

/-! ### Parameters, memories, table and record -/

namespace State

theorem memoriesOk_iff (s : State) : s.memoriesOk = true ↔
    s.cfg.wf = true
      ∧ (s.imem.wf = true ∧ sparseBelow (4 * s.cfg.memWords) s.imem = true)
      ∧ (s.dmem.wf = true ∧ sparseBelow (4 * s.cfg.memWords) s.dmem = true)
      ∧ (sparseWf predReset s.ptab = true ∧ sparseBelow (2 ^ s.cfg.predBits) s.ptab = true)
      ∧ risingBelow s.cfg.memWords s.stored = true := by
  simp only [memoriesOk, Bool.and_eq_true, and_assoc]

@[simp] theorem memoriesOk_writeReg (s : State) (r : Reg) (v : Word) :
    (s.writeReg r v).memoriesOk = s.memoriesOk := rfl
@[simp] theorem memoriesOk_setPc (s : State) (a : Word) : (s.setPc a).memoriesOk = s.memoriesOk := rfl
@[simp] theorem memoriesOk_advance (s : State) : s.advance.memoriesOk = s.memoriesOk := rfl
@[simp] theorem memoriesOk_haltStep (s : State) : s.haltStep.memoriesOk = s.memoriesOk := rfl
@[simp] theorem memoriesOk_restart (s : State) : s.restart.memoriesOk = s.memoriesOk := rfl

theorem memoriesOk_trainBranch {s : State} (h : s.memoriesOk = true) (taken : Bool) :
    (s.trainBranch taken).memoriesOk = true := by
  obtain ⟨hcfg, himem, hdmem, ⟨hwf, hbelow⟩, hstored⟩ := (memoriesOk_iff s).1 h
  refine (memoriesOk_iff _).2 ⟨hcfg, himem, hdmem, ?_, hstored⟩
  rw [trainBranch_ptab]
  exact ⟨updatePredictor_wf hwf _ _ _, updatePredictor_below hbelow _ _ _⟩

/-- A store in range and its note in the record (R83, R91). -/
theorem memoriesOk_store {s : State} (h : s.memoriesOk = true) {addr : Word}
    (ha : inRange s.cfg addr = true) (n : Nat) (v : Word) :
    ((s.setDmem (s.dmem.store addr n v)).noteStore addr).memoriesOk = true := by
  obtain ⟨hcfg, himem, ⟨hwf, hbelow⟩, hptab, hstored⟩ := (memoriesOk_iff s).1 h
  have hidx : wordIndex addr < s.cfg.memWords := of_decide_eq_true ha
  exact (memoriesOk_iff _).2
    ⟨hcfg, himem, ⟨Memory.store_wf hwf _ _ _, Memory.store_below hbelow ha _ _⟩, hptab,
      insertIndex_risingBelow hstored hidx⟩

end State

/-! ### What each effect keeps -/

section
variable {s t : State}

theorem effect_memoriesOk (he : Effect s t) (h : s.memoriesOk = true) : t.memoriesOk = true := by
  cases he with
  | retire rd v => simpa using h
  | store addr n v _ hc =>
    have ha : inRange s.cfg addr = true := (inRange_iff _ _).2 (accessCheck_eq_none.1 hc).2
    simpa using State.memoriesOk_store h ha n v
  | branch taken target _ => simpa using State.memoriesOk_trainBranch h taken
  | jump rd target _ => simpa using h
  | halt => simpa using h

theorem nextPc_aligned {a : Word} (h : a.toNat % 4 = 0) : (nextPc a).toNat % 4 = 0 := by
  unfold nextPc
  bv_omega

theorem aligned_of_not_targetMisaligned {a : Word} (h : targetMisaligned a = false) : a.toNat % 4 = 0 := by
  simpa [targetMisaligned_eq] using h

@[simp] theorem State.pcAligned_restart (s : State) : s.restart.pcAligned = s.pcAligned := rfl

/-- The pc falls through, stays, or moves to a target that passed the alignment check (R284). -/
theorem effect_pcAligned (he : Effect s t) (h : s.pcAligned = true) : t.pcAligned = true := by
  simp only [State.pcAligned, decide_eq_true_eq] at h ⊢
  cases he with
  | retire rd v => exact nextPc_aligned h
  | store addr n v _ _ => exact nextPc_aligned h
  | branch taken target ht =>
    cases taken with
    | true => exact aligned_of_not_targetMisaligned (ht rfl)
    | false => exact nextPc_aligned h
  | jump rd target ht => exact aligned_of_not_targetMisaligned ht
  | halt => exact h

/-- No effect writes x0's slot of the register file (R30). -/
theorem effect_regs_zero (he : Effect s t) : t.regs[0] = s.regs[0] := by
  cases he with
  | retire rd v => exact RegFile.write_slot_zero _ rd v
  | store | branch | halt => rfl
  | jump rd target _ => exact RegFile.write_slot_zero _ rd _

theorem inv_iff (s : State) :
    s.inv = true ↔ s.memoriesOk = true ∧ s.pcAligned = true ∧ s.zeroPinned = true := by
  simp only [State.inv, Bool.and_eq_true, and_assoc]

/-- An executed instruction with the pipeline restarted behind it keeps the invariant; the restart clears
every counter, x0's among them. -/
theorem effect_restart_inv (he : Effect s t) (h : s.inv = true) : t.restart.inv = true := by
  obtain ⟨hmem, hpc, hzero⟩ := (inv_iff s).1 h
  have hx0 : s.regs[0] = 0#32 := by
    simp only [State.zeroPinned, Bool.and_eq_true, decide_eq_true_eq] at hzero
    exact hzero.1
  refine (inv_iff _).2 ⟨?_, ?_, ?_⟩
  · simpa using effect_memoriesOk he hmem
  · simpa using effect_pcAligned he hpc
  · simp [State.zeroPinned, effect_regs_zero he, hx0]

end

/-- Settles O19: an ended run does not change; otherwise the instruction at the pc has one of the five
effects, and the restart behind it keeps the invariant too. -/
theorem stepKeepsTheInvariant : Obligations.StepKeepsTheInvariant := by
  intro s t hinv hstep
  rcases step_eq_next hstep with ⟨_, rfl⟩ | ⟨_, _, w, i, u, _, _, hexec, rfl⟩
  · exact hinv
  · exact effect_restart_inv (exec_effect hexec) hinv

end Sys2Proof.Machine
end

section
/-! What memory holds, as loads see it (20_memory.md R87–R90, R99): a load reads its value from the bytes at its
address, so a load behind a store sees the bytes the store wrote. -/

namespace Sys2Proof.Machine

open Spec

/-! ### Words and their byte lanes -/

/-- A word is its four byte lanes put together (R87). -/
@[simp] theorem wordOfBytes_byteLane (w : Word) :
    wordOfBytes (byteLane w 0) (byteLane w 1) (byteLane w 2) (byteLane w 3) = w := by
  apply BitVec.eq_of_getLsbD_eq
  intro i hi
  simp only [wordOfBytes, byteLane, BitVec.getLsbD_append, BitVec.getLsbD_extractLsb']
  interval_cases i <;> simp

theorem extractByte_shift (w : Word) (lane : Nat) :
    (w >>> (8 * lane)).extractLsb' 0 8 = byteLane w lane := by
  apply BitVec.eq_of_getLsbD_eq
  intro i hi
  simp [byteLane]

theorem extractHalf_shift (w : Word) (lane : Nat) :
    (w >>> (8 * lane)).extractLsb' 0 16 = byteLane w (lane + 1) ++ byteLane w lane := by
  apply BitVec.eq_of_getLsbD_eq
  intro i hi
  simp only [byteLane, BitVec.getLsbD_append, BitVec.getLsbD_extractLsb', BitVec.getLsbD_ushiftRight]
  by_cases h : i < 8
  · simp [hi, h]
  · have e : 8 * (lane + 1) + (i - 8) = 8 * lane + i := by omega
    have h' : i - 8 < 8 := by omega
    simp [hi, h, e, h']

/-! ### A load's value, from the bytes at its address -/

/-- The lane of the word a byte address names holds the byte at that address (R82, R87). -/
theorem Memory.byteLane_readWord_laneOf (m : Memory) (a : Word) {k : Nat} (hk : laneOf a + k < 4) :
    byteLane (m.readWord (wordIndex a)) (laneOf a + k) = m.byte (a.toNat + k) := by
  rw [Memory.byteLane_readWord m _ hk, ← wordIndex_laneOf a, Nat.add_assoc]

theorem sext_eq_signExtend {n : Nat} (v : BitVec n) : sext v = v.signExtend 32 := rfl

/-- An aligned load commits the value its kind makes of the bytes from its address on (R90, R252). -/
theorem Memory.load_eq_loadValue (m : Memory) {k : MemKind} (hk : k.isLoad = true) {a : Word}
    (ha : a.toNat % k.width = 0) : m.load a k = loadValue m k a.toNat := by
  have hlane := laneOf_eq a
  have hbyte : byteLane (m.readWord (wordIndex a)) (laneOf a) = m.byte a.toNat :=
    m.byteLane_readWord_laneOf a (k := 0) (laneOf_lt a)
  cases k with
  | lb => simp only [Memory.load, loadExtend, loadValue, extractByte_shift, hbyte, sext_eq_signExtend]
  | lbu =>
    simp only [Memory.load, loadExtend, loadValue, extractByte_shift, hbyte, BitVec.ofNat_toNat]
  | lh =>
    have hnext := m.byteLane_readWord_laneOf a (k := 1) (by simp only [MemKind.width] at ha; omega)
    simp only [Memory.load, loadExtend, loadValue, extractHalf_shift, hbyte, hnext,
      sext_eq_signExtend]
  | lhu =>
    have hnext := m.byteLane_readWord_laneOf a (k := 1) (by simp only [MemKind.width] at ha; omega)
    simp only [Memory.load, loadExtend, loadValue, extractHalf_shift, hbyte, hnext, BitVec.ofNat_toNat]
  | lw =>
    have hbase : 4 * wordIndex a = a.toNat := by
      have := wordIndex_laneOf a
      simp only [MemKind.width] at ha
      omega
    simp only [Memory.load, loadExtend, loadValue, Memory.readWord, hbase, wordOfBytes]
  | none | sb | sh | sw => cases hk

/-! ### A load behind a word store -/

/-- The addresses of an aligned word's lanes do not wrap around. -/
theorem toNat_add_lane {a : Word} (ha : a.toNat % 4 = 0) {k : Nat} (hk : k < 4) :
    (a + BitVec.ofNat 32 k).toNat = a.toNat + k := by
  have := a.isLt
  simp only [BitVec.toNat_add, BitVec.toNat_ofNat]
  omega

section
variable {m : Memory} (hm : m.wf = true) {a : Word} (ha : a.toNat % 4 = 0) (v : Word)
include hm ha

/-- Lane `k` of a stored word is the byte `k` past its address (R87, R91). -/
theorem Memory.byte_store_word {k : Nat} (hk : k < 4) :
    (m.store a 4 v).byte (a.toNat + k) = byteLane v k := by
  rw [Memory.byte_store hm (.inr (.inr rfl)) ha, if_pos (by omega), Nat.add_sub_cancel_left]

/-- LW reads the stored word back (R99). -/
theorem Memory.load_lw_store_word : (m.store a 4 v).load a .lw = v := by
  have hlane := fun k (hk : k < 4) => Memory.byte_store_word hm ha v hk
  calc (m.store a 4 v).load a .lw
      = wordOfBytes ((m.store a 4 v).byte (a.toNat + 0)) ((m.store a 4 v).byte (a.toNat + 1))
          ((m.store a 4 v).byte (a.toNat + 2)) ((m.store a 4 v).byte (a.toNat + 3)) :=
        Memory.load_eq_loadValue _ rfl ha
    _ = wordOfBytes (byteLane v 0) (byteLane v 1) (byteLane v 2) (byteLane v 3) := by
        rw [hlane 0 (by decide), hlane 1 (by decide), hlane 2 (by decide), hlane 3 (by decide)]
    _ = v := wordOfBytes_byteLane v

/-- LBU sees lane `k` of the stored word (R89). -/
theorem Memory.load_lbu_store_word {k : Nat} (hk : k < 4) :
    (m.store a 4 v).load (a + BitVec.ofNat 32 k) .lbu = (byteLane v k).setWidth 32 := by
  rw [Memory.load_eq_loadValue _ rfl (Nat.mod_one _), toNat_add_lane ha hk, loadValue,
    Memory.byte_store_word hm ha v hk, BitVec.ofNat_toNat]

/-- LHU at an even lane sees it and the lane above (R89). -/
theorem Memory.load_lhu_store_word {k : Nat} (hk : k + 1 < 4) (heven : k % 2 = 0) :
    (m.store a 4 v).load (a + BitVec.ofNat 32 k) .lhu
      = (byteLane v (k + 1) ++ byteLane v k).setWidth 32 := by
  have haddr : (a + BitVec.ofNat 32 k).toNat = a.toNat + k := toNat_add_lane ha (by omega)
  have halign : (a + BitVec.ofNat 32 k).toNat % 2 = 0 := by omega
  rw [Memory.load_eq_loadValue _ rfl halign, haddr, loadValue, Nat.add_assoc,
    Memory.byte_store_word hm ha v hk, Memory.byte_store_word hm ha v (by omega), BitVec.ofNat_toNat]

end

/-- Settles O10: each narrow load sees its own lanes of the stored word. -/
theorem mixedWidthViewsOfAWord : Obligations.MixedWidthViewsOfAWord := by
  intro m a hm ha m'
  have hbyte := fun k hk => Memory.load_lbu_store_word hm ha 0x12345678#32 (k := k) hk
  have hhalf := fun k hk => Memory.load_lhu_store_word hm ha 0x12345678#32 (k := k) hk
  have hbyte0 : m'.load (a + 0#32) .lbu = 0x78#32 := hbyte 0 (by decide)
  have hhalf0 : m'.load (a + 0#32) .lhu = 0x5678#32 := hhalf 0 (by decide) (by decide)
  rw [BitVec.add_zero] at hbyte0 hhalf0
  exact ⟨hbyte0, hbyte 1 (by decide), hbyte 2 (by decide), hbyte 3 (by decide), hhalf0,
    hhalf 2 (by decide) (by decide)⟩

/-! ### LW behind SW -/

theorem loadWith_eq_next {k : MemKind} {i : Instr} {rd rs1 : Reg} {imm : BitVec 12} {s t : State}
    (h : loadWith k i rd rs1 imm s = .next t) :
    accessCheck s.cfg (effectiveAddress (s.x rs1) imm) k.width = none
      ∧ t = (s.writeReg rd (s.dmem.load (effectiveAddress (s.x rs1) imm) k)).advance := by
  rcases loadWith_cases k i rd rs1 imm s with ⟨f, _, e⟩ | ⟨hc, e⟩ <;> rw [e] at h
  · cases h
  · injection h with h; exact ⟨hc, h.symm⟩

theorem storeWith_eq_next {k : MemKind} {i : Instr} {rs1 rs2 : Reg} {imm : BitVec 12} {s t : State}
    (h : storeWith k i rs1 rs2 imm s = .next t) :
    accessCheck s.cfg (effectiveAddress (s.x rs1) imm) k.width = none
      ∧ t = ((s.setDmem (s.dmem.store (effectiveAddress (s.x rs1) imm) k.width (s.x rs2))).noteStore
          (effectiveAddress (s.x rs1) imm)).advance := by
  rcases storeWith_cases k i rs1 rs2 imm s with ⟨f, _, e⟩ | ⟨hc, e⟩ <;> rw [e] at h
  · cases h
  · injection h with h; exact ⟨hc, h.symm⟩

/-- Settles O11: the store moves no register, so the load's address is the store's, and the word there is
the one stored. -/
theorem loadAfterStoreReadsTheStoredWord : Obligations.LoadAfterStoreReadsTheStoredWord := by
  intro s t u rd rs1 rs2 imm hwf hstore hload hrd
  obtain ⟨hcheck, rfl⟩ := storeWith_eq_next (show storeWith .sw _ rs1 rs2 imm s = .next t from hstore)
  obtain ⟨-, rfl⟩ := loadWith_eq_next (show loadWith .lw _ rd rs1 imm _ = .next u from hload)
  have halign := (accessCheck_eq_none.1 hcheck).1
  simpa [State.x_writeReg, hrd, MemKind.width] using Memory.load_lw_store_word hwf halign (s.x rs2)

end Sys2Proof.Machine
end

section
/-! Who writes memory (20_memory.md R85, R103): only a store changes data memory and the record of stored words, and
nothing writes instruction memory. -/

namespace Sys2Proof.Machine

open Spec

/-! ### An instruction that is no store keeps data memory and the record -/

section
variable {s t : State}

theorem retire_dataKept {rd : Reg} {v : Word} (h : s.retire rd v = .next t) : dataKept s t := by
  rw [retire_eq_next h]
  exact ⟨fun _ => rfl, rfl, rfl⟩

theorem loadWith_dataKept {k : MemKind} {i : Instr} {rd rs1 : Reg} {imm : BitVec 12}
    (h : loadWith k i rd rs1 imm s = .next t) : dataKept s t := by
  obtain ⟨-, rfl⟩ := loadWith_eq_next h
  exact ⟨fun _ => rfl, rfl, rfl⟩

theorem branchWith_dataKept {op : AluOp} {flip : Bool} {i : Instr} {rs1 rs2 : Reg} {off : BitVec 13}
    (h : branchWith op flip i rs1 rs2 off s = .next t) : dataKept s t := by
  rcases branchWith_cases op flip i rs1 rs2 off s with ⟨_, _, e⟩ | ⟨_, e⟩ <;> rw [e] at h
  · cases h
  · injection h with h; subst h; exact ⟨fun _ => rfl, rfl, rfl⟩

theorem jumpWith_dataKept {i : Instr} {rd : Reg} {res : Word} (h : jumpWith i rd res s = .next t) :
    dataKept s t := by
  rcases jumpWith_cases i rd res s with ⟨_, e⟩ | ⟨_, e⟩ <;> rw [e] at h
  · cases h
  · injection h with h; subst h; exact ⟨fun _ => rfl, rfl, rfl⟩

/-- Only a store changes data memory or the record of stored words (R85). -/
theorem exec_dataKept {i : Instr} (hi : (Instr.bundle i).mem.isStore = false) (h : exec i s = .next t) :
    dataKept s t := by
  cases i with
  | add | sub | sll | slt | sltu | xor | srl | sra | or | and => exact retire_dataKept h
  | addi | slti | sltiu | xori | ori | andi | slli | srli | srai => exact retire_dataKept h
  | lui | auipc => exact retire_dataKept h
  | lb | lh | lw | lbu | lhu => exact loadWith_dataKept h
  | sb | sh | sw => cases hi
  | beq | bne | blt | bge | bltu | bgeu => exact branchWith_dataKept h
  | jal | jalr => exact jumpWith_dataKept h
  | ecall | ebreak => injection h with h; subst h; exact ⟨fun _ => rfl, rfl, rfl⟩

end

/-! ### A store notes the word it writes -/

/-- The record with an index added holds that index and what it held before. -/
theorem mem_insertIndex_iff {l : List Nat} {i j : Nat} : j ∈ insertIndex l i ↔ j = i ∨ j ∈ l := by
  refine ⟨mem_insertIndex, fun h => ?_⟩
  induction l with
  | nil => simpa [insertIndex] using h
  | cons k t ih =>
    unfold insertIndex
    split_ifs with hlt heq
    · exact List.mem_cons.2 h
    · exact h.elim (fun hj => hj.trans heq ▸ List.mem_cons_self) id
    · rw [List.mem_cons] at h ⊢
      exact (or_left_comm.1 h).imp_right ih

theorem mem_storeForms_iff {i : Instr} {rs1 rs2 : Reg} {imm : BitVec 12} :
    i ∈ (storeForms rs1 rs2 imm).map Prod.fst
      ↔ i = .sb rs1 rs2 imm ∨ i = .sh rs1 rs2 imm ∨ i = .sw rs1 rs2 imm := by
  simp [storeForms]

/-- A control row moves memory as a store exactly for the three store forms (R138, R165). -/
theorem isStore_bundle_iff {i : Instr} : (Instr.bundle i).mem.isStore = true ↔
    ∃ rs1 rs2 imm, i ∈ (storeForms rs1 rs2 imm).map Prod.fst := by
  constructor
  · intro h
    cases i with
    | sb rs1 rs2 imm | sh rs1 rs2 imm | sw rs1 rs2 imm => exact ⟨rs1, rs2, imm, by simp [storeForms]⟩
    | _ => cases h
  · rintro ⟨rs1, rs2, imm, hi⟩
    rcases mem_storeForms_iff.1 hi with rfl | rfl | rfl <;> rfl

theorem storeWith_stored {k : MemKind} {i : Instr} {rs1 rs2 : Reg} {imm : BitVec 12} {s t : State}
    (h : storeWith k i rs1 rs2 imm s = .next t) :
    t.stored = insertIndex s.stored ((effectiveAddress (s.x rs1) imm).toNat / 4) := by
  obtain ⟨-, rfl⟩ := storeWith_eq_next h
  simp [wordIndex_eq]

/-- A completed store adds its word's index to the record (R103). -/
theorem mem_stored_of_store {i : Instr} {rs1 rs2 : Reg} {imm : BitVec 12} {s t : State}
    (hi : i ∈ (storeForms rs1 rs2 imm).map Prod.fst) (h : exec i s = .next t) {j : Nat} :
    j ∈ t.stored ↔ j = (effectiveAddress (s.x rs1) imm).toNat / 4 ∨ j ∈ s.stored := by
  have hstored : t.stored = insertIndex s.stored ((effectiveAddress (s.x rs1) imm).toNat / 4) := by
    rcases mem_storeForms_iff.1 hi with rfl | rfl | rfl
    · exact storeWith_stored (k := .sb) h
    · exact storeWith_stored (k := .sh) h
    · exact storeWith_stored (k := .sw) h
  rw [hstored, mem_insertIndex_iff]

/-- Settles O9: a store adds its own index, and every other instruction keeps the record. -/
theorem storedWordsAreRemembered : Obligations.StoredWordsAreRemembered := by
  intro s t i h j
  cases hi : (Instr.bundle i).mem.isStore with
  | false =>
    obtain ⟨-, -, hstored⟩ := exec_dataKept hi h
    rw [hstored, iff_self_or]
    rintro ⟨rs1, rs2, imm, hform, -⟩
    rw [isStore_bundle_iff.2 ⟨rs1, rs2, imm, hform⟩] at hi
    cases hi
  | true =>
    obtain ⟨rs1, rs2, imm, hform⟩ := isStore_bundle_iff.1 hi
    constructor
    · intro hj
      exact ((mem_stored_of_store hform h).1 hj).symm.imp_right fun hj => ⟨rs1, rs2, imm, hform, hj⟩
    · rintro (hj | ⟨rs1', rs2', imm', hform', hj⟩)
      · exact (mem_stored_of_store hform h).2 (.inr hj)
      · exact (mem_stored_of_store hform' h).2 (.inl hj)

/-! ### Instruction memory and the parameters -/

theorem effect_imem_cfg {s t : State} (he : Effect s t) : t.imem = s.imem ∧ t.cfg = s.cfg := by
  cases he with
  | retire | store | branch | jump | halt => exact ⟨rfl, rfl⟩

theorem step_imem_cfg {s t : State} (h : step s = .next t) : t.imem = s.imem ∧ t.cfg = s.cfg := by
  rcases step_eq_next h with ⟨_, rfl⟩ | ⟨_, _, w, i, u, _, _, hexec, rfl⟩
  · exact ⟨rfl, rfl⟩
  · simpa using effect_imem_cfg (exec_effect hexec)

theorem tick_imem_cfg {s t : State} (h : tick s = .next t) : t.imem = s.imem ∧ t.cfg = s.cfg := by
  rcases tick_eq_next h with ⟨_, rfl⟩ | ⟨hrun, _, rfl, _⟩
  · exact ⟨rfl, rfl⟩
  · exact ⟨nextTick_imem hrun, nextTick_cfg hrun⟩

/-- A tick writes data memory only for a live store in M (R100). -/
theorem tick_dmem {s t : State} (h : tick s = .next t) (hm : (s.m.live && s.m.c.mem.isStore) = false) :
    t.dmem = s.dmem := by
  rcases tick_eq_next h with ⟨_, rfl⟩ | ⟨hrun, _, rfl, _⟩
  · rfl
  · simp [nextTick_dmem hrun, memoryCommit, hm]

/-- Settles O20, from what a step, a tick and an executed instruction each keep. -/
theorem onlyStoresWriteMemory : Obligations.OnlyStoresWriteMemory := by
  refine ⟨fun _ _ => step_imem_cfg, fun _ _ => tick_imem_cfg, fun s t i h hi => ?_, fun _ _ => tick_dmem⟩
  obtain ⟨-, hdmem, -⟩ := exec_dataKept hi h
  exact hdmem

end Sys2Proof.Machine
end

section
/-! Loading (20_memory.md R86): the image and the drawn words end up at their own indices, in memories that are
canonical and within range, so the state before cycle 0 meets the invariant. -/

namespace Sys2Proof.Machine

/-! ### Whole words written and read -/

/-- A byte of a whole written word, or of another word (R81). -/
theorem Memory.byte_writeWord_whole {m : Memory} (hm : m.wf = true) (i j : Nat) (w : Word) {k : Nat}
    (hk : k < 4) : (m.writeWord i w 0b1111#4).byte (4 * j + k) =
      if j = i then byteLane w k else m.byte (4 * j + k) := by
  have hidx : (4 * j + k) / 4 = j := by omega
  have hlane : (4 * j + k) % 4 = k := by omega
  have hmask : (0b1111#4).getLsbD k = true := by interval_cases k <;> rfl
  simp only [Memory.byte_writeWord hm, hidx, hlane, hmask, and_true]

/-- Read after write, a word at a time (R81). -/
theorem Memory.readWord_writeWord {m : Memory} (hm : m.wf = true) (i j : Nat) (w : Word) :
    (m.writeWord i w 0b1111#4).readWord j = if j = i then w else m.readWord j := by
  have hbyte := fun k (hk : k < 4) => Memory.byte_writeWord_whole hm i j w hk
  have hbyte0 := hbyte 0 (by decide)
  rw [Nat.add_zero] at hbyte0
  rw [Memory.readWord, hbyte0, hbyte 1 (by decide), hbyte 2 (by decide), hbyte 3 (by decide)]
  split_ifs
  · exact wordOfBytes_byteLane w
  · rfl

/-! ### Loading a list of words -/

theorem loadWords_wf {m : Memory} (hm : m.wf = true) (ws : List Word) (i : Nat) :
    (loadWords ws i m).wf = true := by
  induction ws generalizing i m with
  | nil => exact hm
  | cons w ws ih => exact ih (Memory.writeWord_wf hm _ _ _) (i + 1)

theorem loadWords_below {m : Memory} {n : Nat} (hm : sparseBelow (4 * n) m = true) {ws : List Word}
    {i : Nat} (hn : i + ws.length ≤ n) : sparseBelow (4 * n) (loadWords ws i m) = true := by
  induction ws generalizing i m with
  | nil => exact hm
  | cons w ws ih =>
    rw [List.length_cons] at hn
    exact ih (Memory.writeWord_below hm (by omega) _ _) (by omega)

/-- Loading leaves every word below its first index. -/
theorem readWord_loadWords_of_lt {m : Memory} (hm : m.wf = true) (ws : List Word) {i j : Nat} (hj : j < i) :
    (loadWords ws i m).readWord j = m.readWord j := by
  induction ws generalizing i m with
  | nil => rfl
  | cons w ws ih =>
    rw [loadWords, ih (Memory.writeWord_wf hm _ _ _) (by omega), Memory.readWord_writeWord hm,
      if_neg (by omega)]

/-- Word `j` of the list is found `j` words above the first index. -/
theorem readWord_loadWords {m : Memory} (hm : m.wf = true) {ws : List Word} (i : Nat) {j : Nat}
    (hj : j < ws.length) : (loadWords ws i m).readWord (i + j) = ws[j] := by
  induction ws generalizing i j m with
  | nil => cases hj
  | cons w ws ih =>
    have hm' := Memory.writeWord_wf hm i w 0b1111#4
    cases j with
    | zero =>
      rw [loadWords, readWord_loadWords_of_lt hm' _ (by omega), Memory.readWord_writeWord hm]
      exact if_pos rfl
    | succ j =>
      have hidx : i + (j + 1) = i + 1 + j := by omega
      rw [loadWords, hidx]
      exact ih hm' (i + 1) (Nat.lt_of_succ_lt_succ hj)

/-! ### The state before cycle 0 -/

/-- The contents `boot` loads into both memories. -/
def bootMemory (cfg : Config) (image drawn : List Word) : Memory :=
  loadWords ((image ++ drawn).take cfg.memWords) 0 []

/-- The state `boot` answers. -/
def bootState (cfg : Config) (image drawn : List Word) : State :=
  { State.resetWith cfg with imem := bootMemory cfg image drawn, dmem := bootMemory cfg image drawn }

section
variable {cfg : Config} (image drawn : List Word)

theorem boot_of_long (hcfg : cfg.wf = true) (h : cfg.memWords < image.length) :
    boot cfg image drawn = .refused (.imageTooLong image.length) := by
  simp [boot, hcfg, h]

theorem boot_of_fits (hcfg : cfg.wf = true) (h : image.length ≤ cfg.memWords) :
    boot cfg image drawn = .next (bootState cfg image drawn) := by
  simp [boot, hcfg, Nat.not_lt.2 h, bootState, bootMemory]

theorem bootMemory_wf : (bootMemory cfg image drawn).wf = true := loadWords_wf rfl _ _

theorem bootMemory_below : sparseBelow (4 * cfg.memWords) (bootMemory cfg image drawn) = true :=
  loadWords_below rfl (by simp)

/-- Word `i` of a loaded memory is word `i` of the image followed by the drawn words (R86). -/
theorem readWord_bootMemory {i : Nat} (hi : i < (image ++ drawn).length) (hn : i < cfg.memWords) :
    (bootMemory cfg image drawn).readWord i = (image ++ drawn)[i] := by
  have hlen : i < ((image ++ drawn).take cfg.memWords).length := by
    rw [List.length_take]; exact Nat.lt_min.2 ⟨hn, hi⟩
  calc (bootMemory cfg image drawn).readWord i
      = (bootMemory cfg image drawn).readWord (0 + i) := by rw [Nat.zero_add]
    _ = ((image ++ drawn).take cfg.memWords)[i] := readWord_loadWords rfl 0 hlen
    _ = (image ++ drawn)[i] := List.getElem_take

theorem bootState_drained : (bootState cfg image drawn).drained = true := decide_eq_true rfl

theorem bootState_inv (hcfg : cfg.wf = true) : (bootState cfg image drawn).inv = true := by
  have hmem : (bootMemory cfg image drawn).wf = true
      ∧ sparseBelow (4 * cfg.memWords) (bootMemory cfg image drawn) = true :=
    ⟨bootMemory_wf image drawn, bootMemory_below image drawn⟩
  refine (inv_iff _).2 ⟨(State.memoriesOk_iff _).2 ⟨hcfg, hmem, hmem, ⟨rfl, rfl⟩, rfl⟩, ?_, rfl⟩
  simp only [Config.wf, Bool.and_eq_true, decide_eq_true_eq] at hcfg
  obtain ⟨⟨⟨-, halign⟩, -⟩, -⟩ := hcfg
  exact decide_eq_true halign

end

/-- Settles O29: both memories are the loaded list, and the rest of the state is as reset leaves it. -/
theorem bootLoadsTheImageIntoBothMemories : Obligations.BootLoadsTheImageIntoBothMemories := by
  intro cfg image drawn hcfg
  refine ⟨boot_of_long image drawn hcfg, fun hfits => ?_⟩
  exact ⟨bootState cfg image drawn, boot_of_fits image drawn hcfg hfits, bootState_inv image drawn hcfg,
    bootState_drained image drawn, rfl, rfl, fun i hi hn =>
      ⟨readWord_bootMemory image drawn hi hn, readWord_bootMemory image drawn hi hn⟩⟩

end Sys2Proof.Machine
end

section
/-! The fields of a word put together again (30_encoding.md R122–R127): the converse of the field lemmas of
Laws/Decode.lean, and what a mask of the opcode table says about them. -/

namespace Sys2Proof

section
variable {w m p : Word}

/-! ### A word is its fields -/

theorem encodeR_of_fields {op : BitVec 7} {f3 : BitVec 3} {f7 : BitVec 7} (hop : opcodeOf w = op)
    (h3 : funct3Of w = f3) (h7 : funct7Of w = f7) :
    encodeR f7 (rs2Of w) (rs1Of w) f3 (rdOf w) op = w := by
  subst hop h3 h7
  apply BitVec.eq_of_getLsbD_eq
  intro i hi
  simp only [encodeR, opcodeOf, rdOf, funct3Of, rs1Of, rs2Of, funct7Of, bits, BitVec.getLsbD_append,
    BitVec.getLsbD_extractLsb']
  interval_cases i <;> simp

theorem encodeI_of_fields {op : BitVec 7} {f3 : BitVec 3} (hop : opcodeOf w = op) (h3 : funct3Of w = f3) :
    encodeI (immIOf w) (rs1Of w) f3 (rdOf w) op = w := by
  subst hop h3
  apply BitVec.eq_of_getLsbD_eq
  intro i hi
  simp only [encodeI, opcodeOf, rdOf, funct3Of, rs1Of, immIOf, bits, BitVec.getLsbD_append,
    BitVec.getLsbD_extractLsb']
  interval_cases i <;> simp

theorem encodeS_of_fields {f3 : BitVec 3} (hop : opcodeOf w = opStore) (h3 : funct3Of w = f3) :
    encodeS (immSOf w) (rs2Of w) (rs1Of w) f3 = w := by
  rw [encodeS, ← hop, ← h3]
  apply BitVec.eq_of_getLsbD_eq
  intro i hi
  simp only [opcodeOf, funct3Of, rs1Of, rs2Of, immSOf, bits, BitVec.getLsbD_append,
    BitVec.getLsbD_extractLsb']
  interval_cases i <;> simp

theorem encodeB_of_fields {f3 : BitVec 3} (hop : opcodeOf w = opBranch) (h3 : funct3Of w = f3) :
    encodeB (offBOf w) (rs2Of w) (rs1Of w) f3 = w := by
  rw [encodeB, ← hop, ← h3]
  apply BitVec.eq_of_getLsbD_eq
  intro i hi
  simp only [opcodeOf, funct3Of, rs1Of, rs2Of, offBOf, bits, BitVec.getLsbD_append,
    BitVec.getLsbD_extractLsb']
  interval_cases i <;> simp

theorem encodeU_of_fields {op : BitVec 7} (hop : opcodeOf w = op) :
    encodeU (immUOf w) (rdOf w) op = w := by
  subst hop
  apply BitVec.eq_of_getLsbD_eq
  intro i hi
  simp only [encodeU, opcodeOf, rdOf, immUOf, bits, BitVec.getLsbD_append, BitVec.getLsbD_extractLsb']
  interval_cases i <;> simp

theorem encodeJ_of_fields (hop : opcodeOf w = opJal) : encodeJ (offJOf w) (rdOf w) = w := by
  rw [encodeJ, ← hop]
  apply BitVec.eq_of_getLsbD_eq
  intro i hi
  simp only [opcodeOf, rdOf, offJOf, bits, BitVec.getLsbD_append, BitVec.getLsbD_extractLsb']
  interval_cases i <;> simp

/-- The offset a B-format word holds has bit 0 clear (R130). -/
@[simp] theorem evenOffset_offBOf (w : Word) : evenOffset (offBOf w) = true := by
  simp only [evenOffset, offBOf, BitVec.getLsbD_append]
  rfl

/-- The offset a J-format word holds has bit 0 clear (R132). -/
@[simp] theorem evenOffset_offJOf (w : Word) : evenOffset (offJOf w) = true := by
  simp only [evenOffset, offJOf, BitVec.getLsbD_append]
  rfl

/-! ### A word that fits a row is an encoding (R149): the converse of the mask lemmas of Laws/Decode.lean -/

/-- A field the mask covers is read off the pattern. -/
theorem bits_of_fits {lo len : Nat} (h : w &&& m = p) (hm : bits m lo len = BitVec.allOnes len) :
    bits w lo len = bits p lo len := by
  unfold bits at hm ⊢
  rw [← h, BitVec.extractLsb'_and, hm, BitVec.and_allOnes]

theorem encodeR_of_fits {f7 : BitVec 7} {f3 : BitVec 3} {op : BitVec 7}
    (h : w &&& 0xFE00707F#32 = encodeR f7 0#5 0#5 f3 0#5 op) :
    encodeR f7 (rs2Of w) (rs1Of w) f3 (rdOf w) op = w :=
  encodeR_of_fields ((bits_of_fits h rfl).trans (opcodeOf_encodeR ..))
    ((bits_of_fits h rfl).trans (funct3Of_encodeR ..)) ((bits_of_fits h rfl).trans (funct7Of_encodeR ..))

theorem encodeI_of_fits {f3 : BitVec 3} {op : BitVec 7}
    (h : w &&& 0x0000707F#32 = encodeI 0#12 0#5 f3 0#5 op) :
    encodeI (immIOf w) (rs1Of w) f3 (rdOf w) op = w :=
  encodeI_of_fields ((bits_of_fits h rfl).trans (opcodeOf_encodeI ..))
    ((bits_of_fits h rfl).trans (funct3Of_encodeI ..))

theorem encodeS_of_fits {f3 : BitVec 3} (h : w &&& 0x0000707F#32 = encodeS 0#12 0#5 0#5 f3) :
    encodeS (immSOf w) (rs2Of w) (rs1Of w) f3 = w :=
  encodeS_of_fields ((bits_of_fits h rfl).trans (opcodeOf_encodeS ..))
    ((bits_of_fits h rfl).trans (funct3Of_encodeS ..))

theorem encodeB_of_fits {f3 : BitVec 3} (h : w &&& 0x0000707F#32 = encodeB 0#13 0#5 0#5 f3) :
    encodeB (offBOf w) (rs2Of w) (rs1Of w) f3 = w :=
  encodeB_of_fields ((bits_of_fits h rfl).trans (opcodeOf_encodeB ..))
    ((bits_of_fits h rfl).trans (funct3Of_encodeB ..))

theorem encodeU_of_fits {op : BitVec 7} (h : w &&& 0x0000007F#32 = encodeU 0#20 0#5 op) :
    encodeU (immUOf w) (rdOf w) op = w :=
  encodeU_of_fields ((bits_of_fits h rfl).trans (opcodeOf_encodeU ..))

theorem encodeJ_of_fits (h : w &&& 0x0000007F#32 = encodeJ 0#21 0#5) :
    encodeJ (offJOf w) (rdOf w) = w :=
  encodeJ_of_fields ((bits_of_fits h rfl).trans (opcodeOf_encodeJ ..))

end
end Sys2Proof
end

section
/-! The decoder is inverse to the encoder (30_encoding.md R121–R143): at most one class matches a word, each class
reads what the encoder wrote, and what a class reads encodes to the word. -/

namespace Sys2Proof

/-! ### At most one class matches (R143) -/

/-- The nine classes in the document's order (R161), each with the opcodes it answers to (R134, R141). -/
def classTable : List (List (BitVec 7) × (Word → Option Instr)) :=
  [([opOp], decodeOp), ([opImm], decodeOpImm), ([opLoad], decodeLoad), ([opStore], decodeStore),
    ([opBranch], decodeBranch), ([opJal], decodeJal), ([opJalr], decodeJalr),
    ([opLui, opAuipc], decodeUpper), ([0b1110011#7], decodeHalt)]

theorem classMatches_eq_map (w : Word) : classMatches w = classTable.map fun c => c.2 w := rfl

theorem decodeUpper_eq_none {w : Word} (h : opcodeOf w ∉ [opLui, opAuipc]) : decodeUpper w = none := by
  simp only [List.mem_cons, List.not_mem_nil, or_false, not_or] at h
  simp only [decodeUpper, if_neg h.1, if_neg h.2]

theorem decodeHalt_eq_none {w : Word} (h : opcodeOf w ∉ [0b1110011#7]) : decodeHalt w = none := by
  unfold decodeHalt
  split_ifs with he hb
  · exact absurd (he ▸ by decide) h
  · exact absurd (hb ▸ by decide) h
  · rfl

/-- A class matches no word of another opcode. -/
theorem class_eq_none (w : Word) : ∀ c ∈ classTable, opcodeOf w ∉ c.1 → c.2 w = none := by
  simp only [classTable, List.forall_mem_cons]
  exact ⟨fun h => if_pos (by simpa using h), fun h => if_pos (by simpa using h),
    fun h => if_pos (by simpa using h), fun h => if_pos (by simpa using h),
    fun h => if_pos (by simpa using h), fun h => if_pos (by simpa using h),
    fun h => if_pos (by simpa using h), decodeUpper_eq_none, decodeHalt_eq_none, nofun⟩

/-- No opcode belongs to two classes, so of any two classes one does not match. -/
theorem classMatches_pairwise (w : Word) : (classMatches w).Pairwise fun a b => a = none ∨ b = none := by
  have hdisjoint : classTable.Pairwise fun c d => ∀ op ∈ c.1, op ∉ d.1 := by decide
  rw [classMatches_eq_map, List.pairwise_map]
  refine hdisjoint.imp_of_mem fun {c d} hc hd hcd => ?_
  by_cases hop : opcodeOf w ∈ c.1
  · exact .inr (class_eq_none w d hd (hcd _ hop))
  · exact .inl (class_eq_none w c hc hop)

/-- Where of any two entries one is empty, a full one is the only one. -/
theorem filterMap_id_eq_singleton {α : Type} {l : List (Option α)} {a : α}
    (hl : l.Pairwise fun a b => a = none ∨ b = none) (ha : some a ∈ l) : l.filterMap id = [a] := by
  induction l with
  | nil => cases ha
  | cons o t ih =>
    obtain ⟨hot, ht⟩ := List.pairwise_cons.1 hl
    cases o with
    | none =>
      have hat : some a ∈ t := by simpa using ha
      simpa using ih ht hat
    | some b =>
      have hnone : ∀ c ∈ t, c = none := fun c hc => (hot c hc).resolve_left nofun
      have hab : a = b := by
        rcases List.mem_cons.1 ha with h | h
        · exact Option.some.inj h
        · cases hnone _ h
      simpa [hab, List.filterMap_eq_nil_iff] using hnone

theorem decode_eq_ok_iff {w : Word} {i : Instr} : decode w = .ok i ↔ some i ∈ classMatches w := by
  constructor
  · intro h
    unfold decode at h
    split at h
    next j hj =>
      have hmem : j ∈ (classMatches w).filterMap id := hj ▸ List.mem_singleton_self j
      cases h
      simpa using hmem
    all_goals cases h
  · intro h
    simp only [decode, filterMap_id_eq_singleton (classMatches_pairwise w) h]

/-- A word decodes or is rejected as matching nothing (R142, R143). -/
theorem decode_eq_ok_or_noMatch (w : Word) : (∃ i, decode w = .ok i) ∨ decode w = .error (.noMatch w) := by
  by_cases h : ∃ i, some i ∈ classMatches w
  · exact .inl (h.imp fun i => decode_eq_ok_iff.2)
  · have hnil : (classMatches w).filterMap id = [] :=
      List.filterMap_eq_nil_iff.2 fun o ho => Option.eq_none_iff_forall_ne_some.2 fun i hi => h ⟨i, hi ▸ ho⟩
    exact .inr (by simp only [decode, hnil])

/-- Settles O26: the only rejection is the one for matching nothing. -/
theorem noWordMatchesTwoClasses : Obligations.NoWordMatchesTwoClasses := by
  intro w v h
  rcases decode_eq_ok_or_noMatch w with ⟨i, hi⟩ | hi <;> rw [hi] at h <;> cases h

/-! ### Each class reads what the encoder wrote -/

/-- Settles O22: the instruction's own class matches its word, whose fields read back as they were written. -/
theorem decodeInvertsEncode : Obligations.DecodeInvertsEncode := by
  intro i hwf
  rw [decode_eq_ok_iff]
  cases i with
  | add | sub | sll | slt | sltu | xor | srl | sra | or | and => simp [classMatches, encode, decodeOp]
  | addi | slti | sltiu | xori | ori | andi => simp [classMatches, encode, decodeOpImm]
  | slli | srli | srai => simp [classMatches, encode, decodeOpImm]
  | lui | auipc => simp [classMatches, encode, decodeUpper, opLui, opAuipc]
  | lb | lh | lw | lbu | lhu => simp [classMatches, encode, decodeLoad]
  | sb | sh | sw => simp [classMatches, encode, decodeStore]
  | beq rs1 rs2 off | bne rs1 rs2 off | blt rs1 rs2 off | bge rs1 rs2 off | bltu rs1 rs2 off
  | bgeu rs1 rs2 off =>
    have hoff := fun f3 => offBOf_encodeB off rs2 rs1 f3 (by simpa [Instr.wf, evenOffset] using hwf)
    simp [classMatches, encode, decodeBranch, hoff]
  | jal rd off =>
    have hoff := offJOf_encodeJ off rd (by simpa [Instr.wf, evenOffset] using hwf)
    simp [classMatches, encode, decodeJal, hoff]
  | jalr => simp [classMatches, encode, decodeJalr]
  | ecall | ebreak => simp [classMatches, encode, decodeHalt]

/-! ### What a class reads encodes to the word -/

section
variable {w : Word} {i : Instr}

theorem encode_of_decodeOp (h : decodeOp w = some i) : encode i = w ∧ i.wf = true := by
  obtain ⟨hop, h⟩ := Option.ite_none_left_eq_some.1 h
  split at h <;> cases h <;>
    exact ⟨encodeR_of_fields (not_not.1 hop) (BitVec.eq_of_toNat_eq ‹_›) (BitVec.eq_of_toNat_eq ‹_›), rfl⟩

theorem encode_of_decodeOpImm (h : decodeOpImm w = some i) : encode i = w ∧ i.wf = true := by
  obtain ⟨hop, h⟩ := Option.ite_none_left_eq_some.1 h
  rw [ne_eq, not_not] at hop
  split at h
  case h_7 h3 =>
    obtain ⟨h7, h⟩ := Option.ite_none_right_eq_some.1 h
    cases h
    exact ⟨encodeR_of_fields hop (BitVec.eq_of_toNat_eq h3) h7, rfl⟩
  case h_8 h3 =>
    split_ifs at h with h7 h7 <;> cases h <;>
      exact ⟨encodeR_of_fields hop (BitVec.eq_of_toNat_eq h3) h7, rfl⟩
  all_goals
    cases h <;> exact ⟨encodeI_of_fields hop (BitVec.eq_of_toNat_eq ‹_›), rfl⟩

theorem encode_of_decodeLoad (h : decodeLoad w = some i) : encode i = w ∧ i.wf = true := by
  obtain ⟨hop, h⟩ := Option.ite_none_left_eq_some.1 h
  split at h <;> cases h <;>
    exact ⟨encodeI_of_fields (not_not.1 hop) (BitVec.eq_of_toNat_eq ‹_›), rfl⟩

theorem encode_of_decodeStore (h : decodeStore w = some i) : encode i = w ∧ i.wf = true := by
  obtain ⟨hop, h⟩ := Option.ite_none_left_eq_some.1 h
  split at h <;> cases h <;>
    exact ⟨encodeS_of_fields (not_not.1 hop) (BitVec.eq_of_toNat_eq ‹_›), rfl⟩

theorem encode_of_decodeBranch (h : decodeBranch w = some i) : encode i = w ∧ i.wf = true := by
  obtain ⟨hop, h⟩ := Option.ite_none_left_eq_some.1 h
  split at h <;> cases h <;>
    exact ⟨encodeB_of_fields (not_not.1 hop) (BitVec.eq_of_toNat_eq ‹_›), evenOffset_offBOf w⟩

theorem encode_of_decodeJal (h : decodeJal w = some i) : encode i = w ∧ i.wf = true := by
  obtain ⟨hop, h⟩ := Option.ite_none_left_eq_some.1 h
  cases h
  exact ⟨encodeJ_of_fields (not_not.1 hop), evenOffset_offJOf w⟩

theorem encode_of_decodeJalr (h : decodeJalr w = some i) : encode i = w ∧ i.wf = true := by
  obtain ⟨hop, h⟩ := Option.ite_none_left_eq_some.1 h
  obtain ⟨h3, h⟩ := Option.ite_none_right_eq_some.1 h
  cases h
  exact ⟨encodeI_of_fields (not_not.1 hop) h3, rfl⟩

theorem encode_of_decodeUpper (h : decodeUpper w = some i) : encode i = w ∧ i.wf = true := by
  unfold decodeUpper at h
  split_ifs at h with hop hop <;> cases h <;> exact ⟨encodeU_of_fields hop, rfl⟩

theorem encode_of_decodeHalt (h : decodeHalt w = some i) : encode i = w ∧ i.wf = true := by
  unfold decodeHalt at h
  split_ifs at h with hw hw <;> cases h <;> exact ⟨hw.symm, rfl⟩

end

/-- Settles O23: whichever class matches, what it reads encodes to the word. -/
theorem encodeInvertsDecode : Obligations.EncodeInvertsDecode := by
  intro w i h
  rw [decode_eq_ok_iff] at h
  simp only [classMatches, List.mem_cons, List.not_mem_nil, or_false] at h
  rcases h with h | h | h | h | h | h | h | h | h
  · exact encode_of_decodeOp h.symm
  · exact encode_of_decodeOpImm h.symm
  · exact encode_of_decodeLoad h.symm
  · exact encode_of_decodeStore h.symm
  · exact encode_of_decodeBranch h.symm
  · exact encode_of_decodeJal h.symm
  · exact encode_of_decodeJalr h.symm
  · exact encode_of_decodeUpper h.symm
  · exact encode_of_decodeHalt h.symm

end Sys2Proof
end

section
/-! The machine-readable opcode table says which words decode, and to what (30_encoding.md R149). -/

namespace Sys2Proof.Laws.TableRow

/-- The family, for every instruction. -/
theorem of_instr (i : Instr) : Statement i := by
  cases i with
  | add => exact add ..
  | sub => exact sub ..
  | sll => exact sll ..
  | slt => exact slt ..
  | sltu => exact sltu ..
  | xor => exact xor ..
  | srl => exact srl ..
  | sra => exact sra ..
  | or => exact or ..
  | and => exact and ..
  | addi => exact addi ..
  | slti => exact slti ..
  | sltiu => exact sltiu ..
  | xori => exact xori ..
  | ori => exact ori ..
  | andi => exact andi ..
  | slli => exact slli ..
  | srli => exact srli ..
  | srai => exact srai ..
  | lui => exact lui ..
  | auipc => exact auipc ..
  | lb => exact lb ..
  | lh => exact lh ..
  | lw => exact lw ..
  | lbu => exact lbu ..
  | lhu => exact lhu ..
  | sb => exact sb ..
  | sh => exact sh ..
  | sw => exact sw ..
  | beq => exact beq ..
  | bne => exact bne ..
  | blt => exact blt ..
  | bge => exact bge ..
  | bltu => exact bltu ..
  | bgeu => exact bgeu ..
  | jal => exact jal ..
  | jalr => exact jalr ..
  | ecall => exact ecall
  | ebreak => exact ebreak

end Sys2Proof.Laws.TableRow

namespace Sys2Proof

theorem encode_fits_row (i : Instr) :
    ∃ r ∈ opcodeTable, r.mnemonic = i.mnemonic ∧ encode i &&& r.mask = r.pattern := by
  obtain ⟨r, hr, hn, hfits⟩ := Laws.TableRow.of_instr i
  exact ⟨r, hr, hn, of_decide_eq_true hfits⟩

/-- Row by row: the instruction of the row's mnemonic, on the fields of a word that fits, encodes to it. -/
theorem exists_encode_of_fits (w : Word) : ∀ r ∈ opcodeTable, w &&& r.mask = r.pattern →
    ∃ i : Instr, encode i = w ∧ i.wf = true ∧ i.mnemonic = r.mnemonic := by
  simp only [opcodeTable, List.forall_mem_append, List.forall_mem_cons]
  refine ⟨⟨⟨?_, ?_⟩, ?_⟩, ?_⟩
  · exact ⟨fun h => ⟨.add _ _ _, encodeR_of_fits h, rfl, rfl⟩,
      fun h => ⟨.sub _ _ _, encodeR_of_fits h, rfl, rfl⟩,
      fun h => ⟨.sll _ _ _, encodeR_of_fits h, rfl, rfl⟩,
      fun h => ⟨.slt _ _ _, encodeR_of_fits h, rfl, rfl⟩,
      fun h => ⟨.sltu _ _ _, encodeR_of_fits h, rfl, rfl⟩,
      fun h => ⟨.xor _ _ _, encodeR_of_fits h, rfl, rfl⟩,
      fun h => ⟨.srl _ _ _, encodeR_of_fits h, rfl, rfl⟩,
      fun h => ⟨.sra _ _ _, encodeR_of_fits h, rfl, rfl⟩,
      fun h => ⟨.or _ _ _, encodeR_of_fits h, rfl, rfl⟩,
      fun h => ⟨.and _ _ _, encodeR_of_fits h, rfl, rfl⟩, nofun⟩
  · exact ⟨fun h => ⟨.addi _ _ _, encodeI_of_fits h, rfl, rfl⟩,
      fun h => ⟨.slti _ _ _, encodeI_of_fits h, rfl, rfl⟩,
      fun h => ⟨.sltiu _ _ _, encodeI_of_fits h, rfl, rfl⟩,
      fun h => ⟨.xori _ _ _, encodeI_of_fits h, rfl, rfl⟩,
      fun h => ⟨.ori _ _ _, encodeI_of_fits h, rfl, rfl⟩,
      fun h => ⟨.andi _ _ _, encodeI_of_fits h, rfl, rfl⟩,
      fun h => ⟨.slli _ _ _, encodeR_of_fits h, rfl, rfl⟩,
      fun h => ⟨.srli _ _ _, encodeR_of_fits h, rfl, rfl⟩,
      fun h => ⟨.srai _ _ _, encodeR_of_fits h, rfl, rfl⟩,
      fun h => ⟨.lui _ _, encodeU_of_fits h, rfl, rfl⟩,
      fun h => ⟨.auipc _ _, encodeU_of_fits h, rfl, rfl⟩, nofun⟩
  · exact ⟨fun h => ⟨.lb _ _ _, encodeI_of_fits h, rfl, rfl⟩,
      fun h => ⟨.lh _ _ _, encodeI_of_fits h, rfl, rfl⟩,
      fun h => ⟨.lw _ _ _, encodeI_of_fits h, rfl, rfl⟩,
      fun h => ⟨.lbu _ _ _, encodeI_of_fits h, rfl, rfl⟩,
      fun h => ⟨.lhu _ _ _, encodeI_of_fits h, rfl, rfl⟩,
      fun h => ⟨.sb _ _ _, encodeS_of_fits h, rfl, rfl⟩,
      fun h => ⟨.sh _ _ _, encodeS_of_fits h, rfl, rfl⟩,
      fun h => ⟨.sw _ _ _, encodeS_of_fits h, rfl, rfl⟩, nofun⟩
  · exact ⟨fun h => ⟨.beq _ _ _, encodeB_of_fits h, evenOffset_offBOf w, rfl⟩,
      fun h => ⟨.bne _ _ _, encodeB_of_fits h, evenOffset_offBOf w, rfl⟩,
      fun h => ⟨.blt _ _ _, encodeB_of_fits h, evenOffset_offBOf w, rfl⟩,
      fun h => ⟨.bge _ _ _, encodeB_of_fits h, evenOffset_offBOf w, rfl⟩,
      fun h => ⟨.bltu _ _ _, encodeB_of_fits h, evenOffset_offBOf w, rfl⟩,
      fun h => ⟨.bgeu _ _ _, encodeB_of_fits h, evenOffset_offBOf w, rfl⟩,
      fun h => ⟨.jal _ _, encodeJ_of_fits h, evenOffset_offJOf w, rfl⟩,
      fun h => ⟨.jalr _ _ _, encodeI_of_fits h, rfl, rfl⟩,
      fun h => ⟨.ecall, h.symm.trans (BitVec.and_allOnes (x := w)), rfl, rfl⟩,
      fun h => ⟨.ebreak, h.symm.trans (BitVec.and_allOnes (x := w)), rfl, rfl⟩, nofun⟩

/-- A mnemonic names one row. -/
theorem row_eq_of_mnemonic_eq : ∀ r ∈ opcodeTable, ∀ q ∈ opcodeTable, r.mnemonic = q.mnemonic → r = q := by
  decide

/-- A word fits the row of the instruction it decodes to. -/
theorem decode_fits_row {w : Word} {i : Instr} (h : decode w = .ok i) :
    ∃ r ∈ opcodeTable, r.mnemonic = i.mnemonic ∧ w &&& r.mask = r.pattern := by
  have hrow := encode_fits_row i
  rwa [(encodeInvertsDecode w i h).1] at hrow

theorem fits_iff_decodes (w : Word) {r : OpcodeRow} (hr : r ∈ opcodeTable) :
    w &&& r.mask = r.pattern ↔ ∃ i, decode w = .ok i ∧ i.mnemonic = r.mnemonic := by
  constructor
  · intro h
    obtain ⟨i, rfl, hwf, hn⟩ := exists_encode_of_fits w r hr h
    exact ⟨i, decodeInvertsEncode i hwf, hn⟩
  · rintro ⟨i, hi, hn⟩
    obtain ⟨q, hq, hqn, hfits⟩ := decode_fits_row hi
    rwa [row_eq_of_mnemonic_eq r hr q hq (hn.symm.trans hqn.symm)]

/-- Settles O24: a word fits the row whose mnemonic it decodes to, and no other, as one word decodes one way and
one mnemonic names one row. -/
theorem decodeAgreesWithTheOpcodeTable : Obligations.DecodeAgreesWithTheOpcodeTable := by
  refine ⟨rfl, fun w r hr => fits_iff_decodes w hr, fun w i hi => ?_, fun w r hr q hq hfr hfq => ?_⟩
  · obtain ⟨r, hr, -, hfits⟩ := decode_fits_row hi
    exact ⟨r, hr, hfits⟩
  · obtain ⟨i, hi, hir⟩ := (fits_iff_decodes w hr).1 hfr
    obtain ⟨j, hj, hjq⟩ := (fits_iff_decodes w hq).1 hfq
    have hij : i = j := Except.ok.inj (hi.symm.trans hj)
    exact row_eq_of_mnemonic_eq r hr q hq (by rw [← hir, ← hjq, hij])

/-! ### What the table leaves out (R145) -/

/-- The opcodes in use: the nine of R134 and SYSTEM. -/
def usedOpcodes : List (BitVec 7) :=
  [opOp, opImm, opLoad, opStore, opBranch, opJal, opJalr, opLui, opAuipc, 0b1110011#7]

/-- A word that decodes bears an opcode in use, and is a halt word where that is SYSTEM: it is so of every row. -/
theorem opcodeOf_of_decode {w : Word} {i : Instr} (h : decode w = .ok i) :
    opcodeOf w ∈ usedOpcodes ∧ (opcodeOf w = 0b1110011#7 → w ∈ haltWords) := by
  obtain ⟨r, hr, -, hfits⟩ := decode_fits_row h
  have hrows : ∀ r ∈ opcodeTable, opcodeOf r.mask = BitVec.allOnes 7 ∧ opcodeOf r.pattern ∈ usedOpcodes
      ∧ (opcodeOf r.pattern = 0b1110011#7 → r.mask = BitVec.allOnes 32 ∧ r.pattern ∈ haltWords) := by
    decide
  obtain ⟨hmask, hused, hsystem⟩ := hrows r hr
  have hop : opcodeOf w = opcodeOf r.pattern := bits_of_fits hfits hmask
  refine ⟨hop ▸ hused, fun hw => ?_⟩
  obtain ⟨hall, hhalt⟩ := hsystem (hop ▸ hw)
  rwa [← hfits, hall, BitVec.and_allOnes] at hhalt

theorem toNat_opcodeOf_mod_four (w : Word) : (opcodeOf w).toNat % 4 = w.toNat % 4 := by
  have hmod : (opcodeOf w).toNat = w.toNat % 128 := by simp [opcodeOf, bits, BitVec.extractLsb'_toNat]
  omega

/-- Settles O25: no opcode in use is one of those listed or lacks the low bits 11, and a SYSTEM word that
decodes is a halt word. -/
theorem unimplementedWordsAreRejected : Obligations.UnimplementedWordsAreRejected := by
  intro w hw
  refine (decode_eq_ok_or_noMatch w).resolve_left ?_
  rintro ⟨i, hi⟩
  obtain ⟨hused, hsystem⟩ := opcodeOf_of_decode hi
  have hopcodes : ∀ op ∈ usedOpcodes, op ≠ 0b0001111#7 ∧ op ≠ 0b0101111#7
      ∧ op ∉ [0b0001011#7, 0b0101011#7, 0b1011011#7, 0b1111011#7] ∧ op.toNat % 4 = 3 := by decide
  obtain ⟨hmiscMem, hamo, hcustom, hlow⟩ := hopcodes _ hused
  rcases hw with h | h | h | h | ⟨h, hhalt⟩
  · exact hmiscMem h
  · exact hamo h
  · exact hcustom h
  · exact h (toNat_opcodeOf_mod_four w ▸ hlow)
  · exact hhalt (hsystem h)

end Sys2Proof
end

section
/-! Computing into x0 (30_encoding.md R144): every computational form retires a result into its rd, and a result
retired into x0 is dropped (10_state.md R30). -/

namespace Sys2Proof.Machine

open Sys2Proof.Spec

/-! ### What each family of forms executes -/

section
variable (s : State) (rd rs1 rs2 : Reg)

theorem exec_opForms : ∀ p ∈ opForms rd rs1 rs2, exec p.1 s = aluReg p.2.1 rd rs1 rs2 s := by
  simp only [opForms, List.forall_mem_cons]
  exact ⟨rfl, rfl, rfl, rfl, rfl, rfl, rfl, rfl, rfl, rfl, nofun⟩

theorem exec_immForms (imm : BitVec 12) :
    ∀ p ∈ immForms rd rs1 imm, exec p.1 s = aluImm p.2.1 rd rs1 (imm12 imm) s := by
  simp only [immForms, List.forall_mem_cons]
  exact ⟨rfl, rfl, rfl, rfl, rfl, rfl, nofun⟩

theorem exec_shiftForms (shamt : BitVec 5) :
    ∀ p ∈ shiftForms rd rs1 shamt, exec p.1 s = aluImm p.2.1 rd rs1 (immShift p.2.2.1 shamt) s := by
  simp only [shiftForms, List.forall_mem_cons]
  exact ⟨rfl, rfl, rfl, nofun⟩

end

theorem nextPc_eq_ofNat (a : Word) : nextPc a = BitVec.ofNat 32 (a.toNat + 4) := by
  unfold nextPc
  bv_omega

/-- A result retired into x0 leaves the pc advanced and nothing else. -/
theorem retire_zero (s : State) (v : Word) :
    s.retire 0 v = .next { s with pc := BitVec.ofNat 32 (s.pc.toNat + 4) } := by
  rw [← nextPc_eq_ofNat]
  rfl

/-- Settles O6: whichever family the form belongs to, it retires its result into x0. -/
theorem hintsOnlyAdvanceThePc : Obligations.HintsOnlyAdvanceThePc := by
  intro s rs1 rs2 imm shamt u i hi
  simp only [List.mem_append, List.mem_map, List.mem_cons, List.not_mem_nil, or_false] at hi
  rcases hi with ((⟨p, hp, rfl⟩ | ⟨p, hp, rfl⟩) | ⟨p, hp, rfl⟩) | rfl | rfl
  · exact (exec_opForms s 0 rs1 rs2 p hp).trans (retire_zero s _)
  · exact (exec_immForms s 0 rs1 imm p hp).trans (retire_zero s _)
  · exact (exec_shiftForms s 0 rs1 shamt p hp).trans (retire_zero s _)
  · exact retire_zero s _
  · exact retire_zero s _

end Sys2Proof.Machine
end

section
/-! The control table against the instruction rules (40_decoder.md R163–R167). A control row taken through Execute,
Memory and WriteBack on the architectural operands has an answer of its own, `runRow`; each class of rows gets that
answer said once, and every instruction's rule is the answer of its row. -/

namespace Sys2Proof.Machine

/-! ### Live entries (00_scope.md R15) -/

theorem live_iff {n : Entry} : n.live = true ↔ n.valid = true ∧ n.fault = none := by
  simp [Entry.live]

theorem valid_of_live {n : Entry} (h : n.live = true) : n.valid = true := (live_iff.1 h).1

theorem fault_of_live {n : Entry} (h : n.live = true) : n.fault = none := (live_iff.1 h).2

/-! ### What Execute makes of a live entry (47_pipeline.md R402–R407) -/

/-- The entry's ALU result (R403). -/
def aluResult (e : ExecuteReg) : Word := alu e.c.alu (operand e e.c.op1Sel) (operand e e.c.op2Sel)

/-- The entry M takes from an entry in E that raises no fault (R407). -/
def executedEntry (e : ExecuteReg) : MemoryReg :=
  { toEntry := { e.toEntry with fault := none, faultAddr := 0#32 }
    res := aluResult e
    sd := e.v2
    act := e.c.isBranch && branchTaken (aluResult e) e.c.flip }

section
variable {cfg : Config} {e : ExecuteReg} {res : Word}

theorem exfault_of_live (hl : e.live = true) :
    (executeStage cfg e).exfault = (executeSignals cfg e (aluResult e)).2 := by
  simp [executeStage, aluResult, valid_of_live hl, fault_of_live hl]

theorem next_of_noFault (hl : e.live = true) (hx : (executeSignals cfg e (aluResult e)).2 = none) :
    (executeStage cfg e).next = executedEntry e := by
  simp only [aluResult] at hx
  simp [executeStage, executedEntry, aluResult, valid_of_live hl, fault_of_live hl, hx]

/-- A branch faults when it is taken to a misaligned target, whatever was predicted (R284, R404). -/
theorem signalled_branch (hb : e.c.isBranch = true) : (executeSignals cfg e res).2 =
    if branchTaken res e.c.flip = true ∧ targetMisaligned (e.pc + e.c.imm) = true then
      some (.misalignedTarget, e.pc + e.c.imm) else none := by
  simp only [executeSignals, hb, if_true, Bool.and_eq_true]
  split_ifs <;> rfl

theorem signalled_jump (hb : e.c.isBranch = false) (hu : e.c.uncond = true) : (executeSignals cfg e res).2 =
    if targetMisaligned (jumpTarget res) = true then some (.misalignedTarget, jumpTarget res) else none := by
  simp only [executeSignals, hb, hu, if_true, Bool.false_eq_true, if_false]
  split_ifs <;> rfl

theorem signalled_none (hb : e.c.isBranch = false) (hu : e.c.uncond = false) (hm : e.c.mem = .none) :
    (executeSignals cfg e res).2 = none := by
  simp [executeSignals, hb, hu, hm]

theorem signalled_access (hb : e.c.isBranch = false) (hu : e.c.uncond = false) (hm : e.c.mem ≠ .none) :
    (executeSignals cfg e res).2 = (accessCheck cfg res e.c.mem.width).map fun k => (k, res) := by
  simp only [executeSignals, hb, hu, hm, Bool.false_eq_true, if_false]
  cases accessCheck cfg res e.c.mem.width <;> rfl

end

/-! ### What Memory and WriteBack make of a live entry (R408–R411) -/

section
variable {m : MemoryReg} (hl : m.live = true)
include hl

theorem toMemoryReg_memoryStage (dmem : Memory) : (memoryStage dmem m).toMemoryReg = m := by
  simp [memoryStage, valid_of_live hl]

theorem wbValue_of_alu (dmem : Memory) (hsrc : m.c.wbSrc = .alu) : wbValue (memoryStage dmem m) = m.res := by
  simp [wbValue, toMemoryReg_memoryStage hl, hsrc]

theorem wbValue_of_pc4 (dmem : Memory) (hsrc : m.c.wbSrc = .pc4) :
    wbValue (memoryStage dmem m) = nextPc m.pc := by
  simp [wbValue, toMemoryReg_memoryStage hl, hsrc]

/-- The full word a load reads in M is extended in W (R252). -/
theorem wbValue_of_mem (dmem : Memory) (hsrc : m.c.wbSrc = .mem) (hm : m.c.mem.isLoad = true) :
    wbValue (memoryStage dmem m) = dmem.load m.res m.c.mem := by
  simp [wbValue, memoryStage, valid_of_live hl, hl, hsrc, hm, Memory.load]

/-- A destination of x0 claims nothing and drops the value (R30, R166). -/
theorem writeBackRegs_of_rdValid (dmem : Memory) (hd : m.c.rdValid = true) (regs : RegFile) :
    writeBackRegs regs (memoryStage dmem m) = regs.write m.c.rd (wbValue (memoryStage dmem m)) := by
  unfold writeBackRegs Entry.dst Bundle.dest
  by_cases h0 : m.c.rd = 0#5
  · simp [toMemoryReg_memoryStage hl, h0]
  · simp [toMemoryReg_memoryStage hl, hl, hd, h0]

theorem writeBackRegs_of_no_rd (dmem : Memory) (hd : m.c.rdValid = false) (regs : RegFile) :
    writeBackRegs regs (memoryStage dmem m) = regs := by
  simp [writeBackRegs, Entry.dst, Bundle.dest, toMemoryReg_memoryStage hl, hd]

theorem writeBackStatus_of_live (dmem : Memory) :
    writeBackStatus (memoryStage dmem m) = if m.c.halt then .halted else .running := by
  simp [writeBackStatus, toMemoryReg_memoryStage hl, valid_of_live hl, fault_of_live hl]

end

/-! ### A row taken through the stages -/

/-- The entry Decode issues for row `c` of the instruction at the architectural pc (R399). -/
def issuedEntry (s : State) (c : Bundle) (word : Word) (pred : Bool) : ExecuteReg :=
  { valid := true, pc := s.pc, word := word, c := c, pred := pred, fault := none, faultAddr := 0#32
    v1 := if c.rs1Valid then s.x c.rs1 else 0#32, v2 := if c.rs2Valid then s.x c.rs2 else 0#32 }

/-- The fault Execute raises for the row. -/
def rowFault (s : State) (c : Bundle) (word : Word) (pred : Bool) : Option (FaultKind × Word) :=
  let e := issuedEntry s c word pred
  (executeSignals s.cfg e (aluResult e)).2

/-- The state `s` with the Memory stage and the WriteBack of the entry `m` committed. -/
def commitEntry (s : State) (m : MemoryReg) : State :=
  let w := memoryStage s.dmem m
  { s with
    regs := writeBackRegs s.regs w
    pc := writeBackPc s.pc w
    dmem := memoryCommit s.dmem m
    ptab := writeBackPredictor s.cfg s.ptab w
    stored := writeBackStored s.stored w
    status := writeBackStatus w
    f := { s.f with halted := s.f.halted || m.c.halt } }

/-- What the stages answer for row `c`: the fault Execute raises, or the state WriteBack leaves. -/
def runRow (s : State) (c : Bundle) (word : Word) (pred : Bool) : Result :=
  match rowFault s c word pred with
  | some (k, a) => s.raise k a word
  | none => .next (commitEntry s (executedEntry (issuedEntry s c word pred)))

section
variable {s : State} {c : Bundle} {word : Word} {pred : Bool}

theorem runRow_of_fault {k : FaultKind} {a : Word} (h : rowFault s c word pred = some (k, a)) :
    runRow s c word pred = s.raise k a word := by
  simp only [runRow, h]

theorem runRow_of_noFault (h : rowFault s c word pred = none) :
    runRow s c word pred = .next (commitEntry s (executedEntry (issuedEntry s c word pred))) := by
  simp only [runRow, h]

end

/-! ### What a live entry commits, by what its row does -/

section
variable {s : State} (hs : s.status = .running) {m : MemoryReg} (hl : m.live = true)
include hs hl

/-- An entry with a destination writes it, and moves the pc to the fall-through or the jump target. -/
theorem commitEntry_of_rdValid (hd : m.c.rdValid = true) (hb : m.c.isBranch = false)
    (hm : m.c.mem.isStore = false) (hh : m.c.halt = false) :
    commitEntry s m = (s.writeReg m.c.rd (wbValue (memoryStage s.dmem m))).setPc
      (if m.c.uncond then jumpTarget m.res else nextPc m.pc) := by
  simp [commitEntry, writeBackRegs_of_rdValid hl, writeBackStatus_of_live hl, toMemoryReg_memoryStage hl, hl,
    writeBackPc, writeBackPredictor, writeBackStored, memoryCommit, State.writeReg, State.setPc, hs, hd, hb, hm, hh]

theorem commitEntry_of_store (hd : m.c.rdValid = false) (hb : m.c.isBranch = false) (hu : m.c.uncond = false)
    (hm : m.c.mem.isStore = true) (hh : m.c.halt = false) :
    commitEntry s m =
      ((s.setDmem (s.dmem.store m.res m.c.mem.width m.sd)).noteStore m.res).setPc (nextPc m.pc) := by
  simp [commitEntry, writeBackRegs_of_no_rd hl, writeBackStatus_of_live hl, toMemoryReg_memoryStage hl, hl,
    writeBackPc, writeBackPredictor, writeBackStored, memoryCommit, State.setDmem, State.noteStore, State.setPc,
    hs, hd, hb, hu, hm, hh]

/-- A branch trains the table on its outcome; no policy uses the prediction passed along (R373, R376). -/
theorem commitEntry_of_branch (hpc : m.pc = s.pc) (hd : m.c.rdValid = false) (hb : m.c.isBranch = true)
    (hm : m.c.mem.isStore = false) (hh : m.c.halt = false) :
    commitEntry s m =
      (s.trainBranch m.act).setPc (if m.act then m.pc + m.c.imm else nextPc m.pc) := by
  simp [commitEntry, writeBackRegs_of_no_rd hl, writeBackStatus_of_live hl, toMemoryReg_memoryStage hl, hl,
    writeBackPc, writeBackPredictor, writeBackStored, memoryCommit, State.trainBranch, updatePredictor,
    State.setPc, hpc, hs, hd, hb, hm, hh]

end

theorem commitEntry_of_halt {s : State} {m : MemoryReg} (hl : m.live = true) (hd : m.c.rdValid = false)
    (hb : m.c.isBranch = false) (hm : m.c.mem.isStore = false) (hh : m.c.halt = true) :
    commitEntry s m = s.haltStep := by
  simp [commitEntry, writeBackRegs_of_no_rd hl, writeBackStatus_of_live hl, toMemoryReg_memoryStage hl, hl,
    writeBackPc, writeBackPredictor, writeBackStored, memoryCommit, State.haltStep, hd, hb, hm, hh]

/-! ### What each class of rows answers (R165) -/

theorem MemKind.isStore_of_isLoad {k : MemKind} (h : k.isLoad = true) : k.isStore = false := by
  cases k with
  | none | sb | sh | sw => cases h
  | lb | lbu | lh | lhu | lw => rfl

/-- A computational row: the ALU result written back, no transfer, no memory operation and no halt. -/
def Bundle.computes (c : Bundle) : Bool :=
  c.rdValid && !c.isBranch && !c.uncond && decide (c.mem = .none) && decide (c.wbSrc = .alu) && !c.halt

theorem runRow_halt (s : State) (word : Word) (pred : Bool) :
    runRow s bundleHalt word pred = .next s.haltStep := by
  rw [runRow_of_noFault (signalled_none rfl rfl rfl), commitEntry_of_halt rfl rfl rfl rfl rfl]

section
variable {s : State} (hs : s.status = .running) {pred : Bool}
include hs

theorem runRow_of_computes {c : Bundle} {word : Word} (hc : c.computes = true) :
    runRow s c word pred = s.retire c.rd (aluResult (issuedEntry s c word pred)) := by
  simp only [Bundle.computes, Bool.and_eq_true, Bool.not_eq_true', decide_eq_true_eq] at hc
  obtain ⟨⟨⟨⟨⟨hd, hb⟩, hu⟩, hm⟩, hsrc⟩, hh⟩ := hc
  have hst : c.mem.isStore = false := by rw [hm]; rfl
  rw [runRow_of_noFault (signalled_none hb hu hm), commitEntry_of_rdValid hs rfl hd hb hst hh,
    wbValue_of_alu rfl _ hsrc]
  simp only [executedEntry, issuedEntry, hu]
  rfl

variable {i : Instr} (rd rs1 rs2 : Reg)

/-- A load row faults exactly when its access check does, and the word it reads in M is extended in W
(R251, R252, R406). -/
theorem runRow_load {k : MemKind} (hk : k.isLoad = true) (imm : BitVec 12) :
    runRow s (bundleLoad k rd rs1 imm) (encode i) pred = loadWith k i rd rs1 imm s := by
  have hne : k ≠ .none := by rintro rfl; cases hk
  have hrow : rowFault s (bundleLoad k rd rs1 imm) (encode i) pred
      = (accessCheck s.cfg (effectiveAddress (s.x rs1) imm) k.width).map
          fun f => (f, effectiveAddress (s.x rs1) imm) := signalled_access rfl rfl hne
  rcases loadWith_cases k i rd rs1 imm s with ⟨f, hc, e⟩ | ⟨hc, e⟩ <;> rw [e] <;> rw [hc] at hrow
  · exact runRow_of_fault hrow
  · rw [runRow_of_noFault hrow, commitEntry_of_rdValid hs rfl rfl rfl (MemKind.isStore_of_isLoad hk) rfl,
      wbValue_of_mem rfl _ rfl hk]
    rfl

theorem runRow_store {k : MemKind} (hk : k.isStore = true) (imm : BitVec 12) :
    runRow s (bundleStore k rs1 rs2 imm) (encode i) pred = storeWith k i rs1 rs2 imm s := by
  have hne : k ≠ .none := by rintro rfl; cases hk
  have hrow : rowFault s (bundleStore k rs1 rs2 imm) (encode i) pred
      = (accessCheck s.cfg (effectiveAddress (s.x rs1) imm) k.width).map
          fun f => (f, effectiveAddress (s.x rs1) imm) := signalled_access rfl rfl hne
  rcases storeWith_cases k i rs1 rs2 imm s with ⟨f, hc, e⟩ | ⟨hc, e⟩ <;> rw [e] <;> rw [hc] at hrow
  · exact runRow_of_fault hrow
  · rw [runRow_of_noFault hrow, commitEntry_of_store hs rfl rfl rfl rfl hk rfl]
    rfl

theorem runRow_branch (op : AluOp) (flip : Bool) (off : BitVec 13) :
    runRow s (bundleBranch op flip rs1 rs2 off) (encode i) pred = branchWith op flip i rs1 rs2 off s := by
  have hrow : rowFault s (bundleBranch op flip rs1 rs2 off) (encode i) pred
      = if branchTaken (alu op (s.x rs1) (s.x rs2)) flip = true
            ∧ targetMisaligned (branchTarget s.pc off) = true then
          some (.misalignedTarget, branchTarget s.pc off) else none := signalled_branch rfl
  rcases branchWith_cases op flip i rs1 rs2 off s with ⟨ht, hm, e⟩ | ⟨hc, e⟩ <;> rw [e]
  · exact runRow_of_fault (hrow.trans (if_pos ⟨ht, hm⟩))
  · rw [runRow_of_noFault (hrow.trans (if_neg hc)), commitEntry_of_branch hs rfl rfl rfl rfl rfl rfl]
    rfl

/-- A jump writes the link and goes to its ALU result with bit 0 cleared (R281, R405). -/
theorem runRow_jump {c : Bundle} (hd : c.rdValid = true) (hb : c.isBranch = false) (hu : c.uncond = true)
    (hm : c.mem = .none) (hsrc : c.wbSrc = .pc4) (hh : c.halt = false) :
    runRow s c (encode i) pred = jumpWith i c.rd (aluResult (issuedEntry s c (encode i) pred)) s := by
  have hst : c.mem.isStore = false := by rw [hm]; rfl
  have hrow : rowFault s c (encode i) pred
      = if targetMisaligned (jumpTarget (aluResult (issuedEntry s c (encode i) pred))) = true then
          some (.misalignedTarget, jumpTarget (aluResult (issuedEntry s c (encode i) pred))) else none :=
    signalled_jump hb hu
  rcases jumpWith_cases i c.rd (aluResult (issuedEntry s c (encode i) pred)) s with ⟨ht, e⟩ | ⟨ht, e⟩ <;> rw [e]
  · exact runRow_of_fault (hrow.trans (if_pos ht))
  · rw [runRow_of_noFault (hrow.trans (if_neg (ne_true_of_eq_false ht))),
      commitEntry_of_rdValid hs rfl hd hb hst hh, wbValue_of_pc4 rfl _ hsrc]
    simp only [executedEntry, issuedEntry, hu]
    rfl

/-- Whatever was predicted, an instruction's control row answers what its rule does. -/
theorem runRow_bundle (i : Instr) : runRow s (Instr.bundle i) (encode i) pred = exec i s := by
  cases i with
  | add | sub | sll | slt | sltu | xor | srl | sra | or | and => exact runRow_of_computes hs rfl
  | addi | slti | sltiu | xori | ori | andi | slli | srli | srai => exact runRow_of_computes hs rfl
  | lui | auipc => exact runRow_of_computes hs rfl
  | lb | lh | lw | lbu | lhu => exact runRow_load hs _ _ rfl _
  | sb | sh | sw => exact runRow_store hs _ _ rfl _
  | beq | bne | blt | bge | bltu | bgeu => exact runRow_branch hs _ _ _ _ _
  | jal | jalr => exact runRow_jump hs rfl rfl rfl rfl rfl rfl
  | ecall | ebreak => exact runRow_halt _ _ _

end

/-- Settles O33: Execute's fault and M's entry are those of the row's own answer, and that is the rule's. -/
theorem controlTableRealisesTheRules : Obligations.ControlTableRealisesTheRules := by
  intro s i pred hs c e x w
  have hexec : exec i s = runRow s c (encode i) pred := (runRow_bundle hs i).symm
  have hx : x.exfault = rowFault s c (encode i) pred := exfault_of_live rfl
  cases hrow : rowFault s c (encode i) pred with
  | some f =>
    rw [hrow] at hx
    simp only [hx]
    exact hexec.trans (runRow_of_fault hrow)
  | none =>
    have hnext : x.next = executedEntry e := next_of_noFault rfl hrow
    rw [hrow] at hx
    simp only [hx]
    rw [hexec, runRow_of_noFault hrow]
    simp only [w, hnext]
    rfl

/-! ### The shape of a row (R163, R167) -/

theorem opSel_bundle_ne_four (i : Instr) :
    (Instr.bundle i).op1Sel ≠ .four ∧ (Instr.bundle i).op2Sel ≠ .four := by
  cases i <;> exact ⟨nofun, nofun⟩

theorem halt_bundle_iff (i : Instr) : (Instr.bundle i).halt = true ↔ i = .ecall ∨ i = .ebreak := by
  cases i with
  | ecall | ebreak => simp [Instr.bundle, bundleHalt]
  | _ => exact iff_of_false nofun (by simp)

/-- Only a store, a branch and a halt have no destination; their rows leave `rd` at 0. -/
theorem rd_bundle_of_not_valid (i : Instr) (h : (Instr.bundle i).rdValid = false) : (Instr.bundle i).rd = 0#5 := by
  cases i with
  | sb | sh | sw | beq | bne | blt | bge | bltu | bgeu | ecall | ebreak => rfl
  | _ => cases h

theorem rs1_bundle_of_not_valid (i : Instr) (h : (Instr.bundle i).rs1Valid = false) :
    (Instr.bundle i).rs1 = 0#5 := by
  cases i with
  | lui | auipc | jal | ecall | ebreak => rfl
  | _ => cases h

theorem rs2_bundle_of_not_valid (i : Instr) (h : (Instr.bundle i).rs2Valid = false) :
    (Instr.bundle i).rs2 = 0#5 := by
  cases i with
  | add | sub | sll | slt | sltu | xor | srl | sra | or | and => cases h
  | sb | sh | sw | beq | bne | blt | bge | bltu | bgeu => cases h
  | _ => rfl

/-- Settles O34: the halting rows are the two copies of `bundleHalt`; the other clauses hold row by row. -/
theorem controlTableShape : Obligations.ControlTableShape := by
  intro i c
  obtain ⟨h1, h2⟩ := opSel_bundle_ne_four i
  refine ⟨h1, h2, halt_bundle_iff i, fun hh => ?_, rd_bundle_of_not_valid i, rs1_bundle_of_not_valid i,
    rs2_bundle_of_not_valid i⟩
  have hc : c = bundleHalt := by rcases (halt_bundle_iff i).1 hh with rfl | rfl <;> rfl
  rw [hc]
  exact ⟨rfl, rfl, rfl, rfl, rfl, rfl⟩

end Sys2Proof.Machine
end

section
/-! The ALU in integer arithmetic (41_alu_instructions.md R201–R211): shift amounts are the low 5 bits of operand 2,
and each result is the word of a number. -/

namespace Sys2Proof.Machine

open Sys2Proof.Spec

/-- The low 5 bits of operand 2, as a remainder (R211). -/
theorem shiftAmount_eq (b : Word) : shiftAmount b = b.toNat % 32 := by
  simp [shiftAmount, BitVec.extractLsb'_toNat]

theorem eq_ofNat_of_toNat_eq {v : Word} {n : Nat} (h : v.toNat = n) : v = BitVec.ofNat 32 n := by
  rw [← h, BitVec.ofNat_toNat, BitVec.setWidth_eq]

/-- A difference is the integer one, modulo 2^32 (R202). -/
theorem sub_eq_ofInt (a b : Word) : a - b = BitVec.ofInt 32 ((a.toNat : Int) - b.toNat) := by
  apply BitVec.eq_of_toNat_eq
  rw [BitVec.toNat_sub, BitVec.toNat_ofInt]
  omega

theorem shiftLeft_eq_ofNat (a : Word) (n : Nat) : a <<< n = BitVec.ofNat 32 (a.toNat * 2 ^ n) := by
  apply BitVec.eq_of_toNat_eq
  rw [BitVec.toNat_shiftLeft, Nat.shiftLeft_eq, BitVec.toNat_ofNat]

theorem ushiftRight_eq_ofNat (a : Word) (n : Nat) : a >>> n = BitVec.ofNat 32 (a.toNat / 2 ^ n) :=
  eq_ofNat_of_toNat_eq (by rw [BitVec.toNat_ushiftRight, Nat.shiftRight_eq_div_pow])

/-- Shifting in copies of the sign bit is floor division (R207). -/
theorem sshiftRight_eq_ofInt (a : Word) (n : Nat) :
    a.sshiftRight n = BitVec.ofInt 32 (Int.fdiv a.toInt (2 ^ n)) := by
  rw [← BitVec.ofInt_toInt (x := a.sshiftRight n), BitVec.toInt_sshiftRight, Int.shiftRight_eq_div_pow,
    Int.fdiv_eq_ediv_of_nonneg _ (by positivity)]
  rfl

theorem boolWord_eq_ite (p : Prop) [Decidable p] : boolWord (decide p) = if p then 1 else 0 := by
  simp [boolWord]

/-- Settles O1, one operation at a time. -/
theorem aluComputesIntegerResults : Obligations.AluComputesIntegerResults := by
  intro op a b
  cases op with
  | add => exact BitVec.eq_of_toNat_eq (by simp [alu, aluValue])
  | sub => exact sub_eq_ofInt a b
  | sll => rw [alu, aluValue, shiftAmount_eq, shiftLeft_eq_ofNat]
  | slt => exact boolWord_eq_ite _
  | sltu => exact boolWord_eq_ite _
  | xor => exact eq_ofNat_of_toNat_eq (BitVec.toNat_xor a b)
  | sra => rw [alu, aluValue, shiftAmount_eq, sshiftRight_eq_ofInt]
  | srl => rw [alu, aluValue, shiftAmount_eq, ushiftRight_eq_ofNat]
  | or => exact eq_ofNat_of_toNat_eq (BitVec.toNat_or a b)
  | and => exact eq_ofNat_of_toNat_eq (BitVec.toNat_and a b)

end Sys2Proof.Machine
end

section
/-! Words of the OP-IMM opcode (30_encoding.md R136): no other class matches one, and a shift's whole `w[31:25]` is
tested. -/

namespace Sys2Proof

/-- The opcode OP-IMM is one class's only (R134, R161). -/
theorem class_of_opImm : ∀ c ∈ classTable, opImm ∈ c.1 → c.2 = decodeOpImm := by
  intro c hc hmem
  simp only [classTable, List.mem_cons, List.not_mem_nil, or_false] at hc
  rcases hc with rfl | rfl | rfl | rfl | rfl | rfl | rfl | rfl | rfl
  case inr.inl => rfl
  all_goals exact absurd hmem (by decide)

/-- A word of opcode OP-IMM decodes to what the OP-IMM class reads. -/
theorem decodeOpImm_of_decode {w : Word} {i : Instr} (hop : opcodeOf w = opImm) (h : decode w = .ok i) :
    decodeOpImm w = some i := by
  rw [decode_eq_ok_iff, classMatches_eq_map, List.mem_map] at h
  obtain ⟨c, hc, hci⟩ := h
  have hmem : opcodeOf w ∈ c.1 := by
    by_contra hnot
    rw [class_eq_none w c hc hnot] at hci
    cases hci
  rwa [class_of_opImm c hc (hop ▸ hmem)] at hci

/-- The OP-IMM class reads nothing from a shift word whose `w[31:25]` is no shift's (D4). -/
theorem decodeOpImm_eq_none_of_shift {w : Word}
    (h : funct3Of w = 0b001#3 ∧ funct7Of w ≠ 0b0000000#7
      ∨ funct3Of w = 0b101#3 ∧ funct7Of w ≠ 0b0000000#7 ∧ funct7Of w ≠ 0b0100000#7) : decodeOpImm w = none := by
  rcases h with ⟨h3, h7⟩ | ⟨h3, h7, h7'⟩
  · simp [decodeOpImm, h3, h7]
  · simp [decodeOpImm, h3, h7, h7']

end Sys2Proof
end

section
/-! The computational instructions (41_alu_instructions.md R213–R234): what an instruction that retires a value leaves
in the state, said once, and for each family of forms the fields of its words and the value it retires. -/

namespace Sys2Proof.Machine

open Sys2Proof.Spec

/-- Retiring a value writes rd, moves the pc to the next word and keeps everything else (R213). -/
theorem retire_frame (s : State) (rd : Reg) (v : Word) :
    ∃ t, s.retire rd v = .next t ∧ wroteReg s t rd v ∧ fellThrough s t ∧ dataKept s t ∧ coreKept s t := by
  refine ⟨(s.writeReg rd v).advance, rfl, fun r => ?_, nextPc_eq_ofNat s.pc, retire_dataKept rfl, ?_⟩
  · rw [State.x_advance, State.x_writeReg]
  · exact ⟨⟨rfl, fun _ => rfl, rfl, rfl, rfl, rfl, rfl, rfl, rfl, rfl⟩, rfl, rfl, rfl⟩

/-! ### Register-register (R214–R223) -/

theorem encode_opForms (rd rs1 rs2 : Reg) :
    ∀ p ∈ opForms rd rs1 rs2, encode p.1 = encodeR p.2.2.1 rs2 rs1 p.2.2.2 rd opOp := by
  simp only [opForms, List.forall_mem_cons]
  exact ⟨rfl, rfl, rfl, rfl, rfl, rfl, rfl, rfl, rfl, rfl, nofun⟩

/-- Settles O2: every OP form is an R-format word and retires its ALU result. -/
theorem registerRegisterInstructionsExecute : Obligations.RegisterRegisterInstructionsExecute := by
  intro s rd rs1 rs2 p hp
  rw [encode_opForms rd rs1 rs2 p hp, exec_opForms s rd rs1 rs2 p hp, ← aluComputesIntegerResults]
  exact ⟨⟨opcodeOf_encodeR .., funct7Of_encodeR .., funct3Of_encodeR .., rdOf_encodeR .., rs1Of_encodeR ..,
    rs2Of_encodeR ..⟩, retire_frame s rd _⟩

/-! ### Register-immediate (R224–R229) -/

theorem encode_immForms (rd rs1 : Reg) (imm : BitVec 12) :
    ∀ p ∈ immForms rd rs1 imm, encode p.1 = encodeI imm rs1 p.2.2 rd opImm := by
  simp only [immForms, List.forall_mem_cons]
  exact ⟨rfl, rfl, rfl, rfl, rfl, rfl, nofun⟩

theorem bundle_immForms (rd rs1 : Reg) (imm : BitVec 12) :
    ∀ p ∈ immForms rd rs1 imm, Instr.bundle p.1 = bundleImm p.2.1 rd rs1 (imm12 imm) := by
  simp only [immForms, List.forall_mem_cons]
  exact ⟨rfl, rfl, rfl, rfl, rfl, rfl, nofun⟩

/-- A register-immediate row claims its rd, and nothing when that is x0 (R166). -/
theorem dest_bundleImm (op : AluOp) (rd rs1 : Reg) (imm : Word) :
    (bundleImm op rd rs1 imm).dest = if rd = 0#5 then none else some rd := by
  simp [Bundle.dest, bundleImm]

/-- Settles O3: every OP-IMM form is an I-format word and retires its ALU result. -/
theorem registerImmediateInstructionsExecute : Obligations.RegisterImmediateInstructionsExecute := by
  intro s rd rs1 imm p hp
  rw [encode_immForms rd rs1 imm p hp, exec_immForms s rd rs1 imm p hp, bundle_immForms rd rs1 imm p hp,
    ← aluComputesIntegerResults, sext_eq_signExtend]
  exact ⟨⟨opcodeOf_encodeI .., funct3Of_encodeI .., rdOf_encodeI .., rs1Of_encodeI .., immIOf_encodeI ..,
    dest_bundleImm ..⟩, retire_frame s rd _⟩

/-! ### Shifts by an immediate (R230–R232) -/

theorem encode_shiftForms (rd rs1 : Reg) (shamt : BitVec 5) :
    ∀ p ∈ shiftForms rd rs1 shamt, encode p.1 = encodeR p.2.2.1 shamt rs1 p.2.2.2 rd opImm := by
  simp only [shiftForms, List.forall_mem_cons]
  exact ⟨rfl, rfl, rfl, nofun⟩

/-- A shift-immediate's operand 2 has shamt in its low 5 bits, whatever funct7 is (R133, R211). -/
theorem shiftAmount_immShift (f7 : BitVec 7) (shamt : BitVec 5) :
    shiftAmount (immShift f7 shamt) = shiftAmount (BitVec.ofNat 32 shamt.toNat) := by
  unfold shiftAmount
  congr 1
  apply BitVec.eq_of_getLsbD_eq
  intro i hi
  simp only [immShift, imm12, BitVec.getLsbD_extractLsb', BitVec.getLsbD_signExtend, BitVec.getLsbD_append,
    BitVec.ofNat_toNat, BitVec.getLsbD_setWidth]
  interval_cases i <;> simp

/-- A shift's result depends on its operand 2 only through the shift amount. -/
theorem alu_shiftForms (rd rs1 : Reg) (shamt : BitVec 5) {a b c : Word} (h : shiftAmount b = shiftAmount c) :
    ∀ p ∈ shiftForms rd rs1 shamt, alu p.2.1 a b = alu p.2.1 a c := by
  have hsll : alu .sll a b = alu .sll a c := by rw [alu, alu, h]
  have hsrl : alu .srl a b = alu .srl a c := by rw [alu, alu, h]
  have hsra : alu .sra a b = alu .sra a c := by rw [alu, alu, h]
  simp only [shiftForms, List.forall_mem_cons]
  exact ⟨hsll, hsrl, hsra, nofun⟩

/-- Settles O4: a shift word of another `w[31:25]` matches no class, and every shift form is an R-format word of
opcode OP-IMM and retires `x[rs1]` shifted by shamt. -/
theorem shiftImmediateInstructionsExecute : Obligations.ShiftImmediateInstructionsExecute := by
  refine ⟨fun w hop h => (decode_eq_ok_or_noMatch w).resolve_left ?_, fun s rd rs1 shamt p hp => ?_⟩
  · rintro ⟨i, hi⟩
    have hsome := decodeOpImm_of_decode hop hi
    rw [decodeOpImm_eq_none_of_shift h] at hsome
    cases hsome
  · rw [encode_shiftForms rd rs1 shamt p hp, exec_shiftForms s rd rs1 shamt p hp, ← aluComputesIntegerResults,
      ← alu_shiftForms rd rs1 shamt (shiftAmount_immShift p.2.2.1 shamt) p hp]
    exact ⟨⟨opcodeOf_encodeR .., funct7Of_encodeR .., funct3Of_encodeR .., rdOf_encodeR .., rs1Of_encodeR ..,
      rs2Of_encodeR ..⟩, retire_frame s rd _⟩

/-! ### Upper immediates (R233, R234) -/

theorem immU_eq_ofNat (imm : BitVec 20) : immU imm = BitVec.ofNat 32 (imm.toNat * 4096) :=
  eq_ofNat_of_toNat_eq (by rw [immU, BitVec.toNat_append]; simp [Nat.shiftLeft_eq])

theorem add_immU_eq_ofNat (a : Word) (imm : BitVec 20) :
    a + immU imm = BitVec.ofNat 32 (a.toNat + imm.toNat * 4096) := by
  rw [BitVec.ofNat_add, ← immU_eq_ofNat, BitVec.ofNat_toNat, BitVec.setWidth_eq]

/-- Settles O5: both are U-format words and retire the immediate added to 0 or to the pc. -/
theorem upperImmediateInstructionsExecute : Obligations.UpperImmediateInstructionsExecute := by
  intro s rd imm
  refine ⟨⟨opcodeOf_encodeU .., opcodeOf_encodeU .., immUOf_encodeU .., immUOf_encodeU .., rdOf_encodeU ..,
    rdOf_encodeU ..⟩, ?_, ?_, ?_⟩
  · rw [← immU_eq_ofNat]
    exact ⟨rfl, rfl⟩
  · rw [← immU_eq_ofNat, ← BitVec.zero_add (immU imm)]
    exact retire_frame s rd _
  · rw [← add_immU_eq_ofNat]
    exact retire_frame s rd _

end Sys2Proof.Machine
end

section
/-! A step runs what it fetches (41_alu_instructions.md R213): the word at the pc, its four bytes little-endian. -/

namespace Sys2Proof.Machine

theorem decodeBytes_eq_ok_iff {b0 b1 b2 b3 : Byte} {i : Instr} :
    decodeBytes [b0, b1, b2, b3] = .ok (i, []) ↔ decode (wordOfBytes b0 b1 b2 b3) = .ok i := by
  unfold decodeBytes
  cases h : decode (wordOfBytes b0 b1 b2 b3) with
  | ok j => simp [h]
  | error e => simp [h]

theorem fetchWord_of_inRange {s : State} (h : s.pc.toNat < 4 * s.cfg.memWords) :
    s.fetchWord = some (s.imem.readWord (s.pc.toNat / 4)) := by
  rw [State.fetchWord, if_pos ((inRange_iff _ _).2 h), wordIndex_eq]

theorem step_of_decode {s : State} {w : Word} {i : Instr} (hrun : s.status = .running)
    (hself : s.selfModified = false) (hw : s.fetchWord = some w) (hi : decode w = .ok i) :
    step s = mapNext State.restart (exec i s) := by
  simp [step, State.fetchAndRun, hrun, hself, hw, hi]

/-- Settles O16: the four bytes are those of the word fetched. -/
theorem stepRunsTheDecodedInstruction : Obligations.StepRunsTheDecodedInstruction := by
  intro s i hrun hself hpc hbytes
  exact step_of_decode hrun hself (fetchWord_of_inRange hpc) (decodeBytes_eq_ok_iff.1 hbytes)

end Sys2Proof.Machine
end

section
/-! Words of the spec's examples. -/

namespace Sys2Proof

/-- Settles O27: each word is the encoding of its instruction, and decoding inverts encoding; 0x1FF8 is -8 in
13 bits. -/
theorem exampleWordsDecode : Obligations.ExampleWordsDecode :=
  ⟨decodeInvertsEncode (.add 3 1 2) rfl, decodeInvertsEncode (.addi 1 0 0xFFF) rfl,
    decodeInvertsEncode (.srai 3 2 4) rfl, decodeInvertsEncode (.lui 5 0x12345) rfl,
    decodeInvertsEncode (.lh 3 2 2) rfl, decodeInvertsEncode (.sh 2 1 2) rfl,
    decodeInvertsEncode (.bne 1 2 0x1FF8) rfl, decodeInvertsEncode (.jal 1 0x100) rfl,
    decodeInvertsEncode (.jalr 1 5 3) rfl, decodeInvertsEncode .ebreak rfl⟩

end Sys2Proof
end

section
/-! The loads and stores (42_load_store.md R250–R264): the address in integer arithmetic, the faults of a failed address
check, and for each family of forms the fields of its words, what it executes and what that leaves in the state. -/

namespace Sys2Proof.Machine

open Sys2Proof.Spec

/-- The effective address is the sum of the base and the signed immediate, modulo 2^32 (R250). -/
theorem effectiveAddress_eq_ofInt (base : Word) (imm : BitVec 12) :
    effectiveAddress base imm = BitVec.ofInt 32 (base.toNat + imm.toInt) := by
  rw [BitVec.ofInt_add, BitVec.ofInt_natCast, BitVec.ofNat_toNat, BitVec.setWidth_eq]
  rfl

/-- An access that raises what its address check finds faults by alignment first, then by range (R251). -/
theorem faults_of_raises_check {s : State} {a word : Word} {n : Nat} {r : Result}
    (hraise : ∀ f, accessCheck s.cfg a n = some f → r = s.raise f a word) :
    (a.toNat % n ≠ 0 → r = .fault (.misalignedAccess { faultAddr := a, pc := s.pc, word := word }))
    ∧ (a.toNat % n = 0 → 4 * s.cfg.memWords ≤ a.toNat →
        r = .fault (.accessOutOfRange { faultAddr := a, pc := s.pc, word := word })) :=
  ⟨fun hmis => hraise _ (accessCheck_misaligned hmis),
    fun halign hout => hraise _ (accessCheck_outOfRange halign hout)⟩

/-! ### Loads (R256–R260) -/

section
variable {k : MemKind} {i : Instr} {rd rs1 : Reg} {imm : BitVec 12} {s : State} {a : Word}
  (ha : effectiveAddress (s.x rs1) imm = a)
include ha

theorem loadWith_of_check_some {f : FaultKind} (h : accessCheck s.cfg a k.width = some f) :
    loadWith k i rd rs1 imm s = s.raise f a (encode i) := by
  simp only [loadWith, ha, h]

/-- An aligned load inside data memory retires its value (R252, R254). -/
theorem loadWith_eq_retire (hk : k.isLoad = true) (halign : a.toNat % k.width = 0)
    (hin : a.toNat < 4 * s.cfg.memWords) :
    loadWith k i rd rs1 imm s = s.retire rd (loadValue s.dmem k a.toNat) := by
  simp only [loadWith, ha, accessCheck_eq_none.2 ⟨halign, hin⟩, State.retire,
    Memory.load_eq_loadValue s.dmem hk halign]

end

section
variable (rd rs1 : Reg) (imm : BitVec 12)

theorem encode_loadForms : ∀ p ∈ loadForms rd rs1 imm, encode p.1 = encodeI imm rs1 p.2.2.2 rd opLoad := by
  simp only [loadForms, List.forall_mem_cons]
  exact ⟨rfl, rfl, rfl, rfl, rfl, nofun⟩

theorem bundle_loadForms :
    ∀ p ∈ loadForms rd rs1 imm, Instr.bundle p.1 = bundleLoad p.2.1 rd rs1 imm := by
  simp only [loadForms, List.forall_mem_cons]
  exact ⟨rfl, rfl, rfl, rfl, rfl, nofun⟩

theorem exec_loadForms (s : State) :
    ∀ p ∈ loadForms rd rs1 imm, exec p.1 s = loadWith p.2.1 p.1 rd rs1 imm s := by
  simp only [loadForms, List.forall_mem_cons]
  exact ⟨rfl, rfl, rfl, rfl, rfl, nofun⟩

theorem kind_loadForms : ∀ p ∈ loadForms rd rs1 imm, p.2.1.isLoad = true ∧ p.2.2.1 = p.2.1.width := by
  simp only [loadForms, List.forall_mem_cons]
  exact ⟨⟨rfl, rfl⟩, ⟨rfl, rfl⟩, ⟨rfl, rfl⟩, ⟨rfl, rfl⟩, ⟨rfl, rfl⟩, nofun⟩

end

/-- Settles O7: every load form is an I-format word; it retires the value at its address when the check passes, and
raises what the check finds otherwise. -/
theorem loadsReadOrFault : Obligations.LoadsReadOrFault := by
  intro s rd rs1 imm p hp a report
  obtain ⟨hload, hwidth⟩ := kind_loadForms rd rs1 imm p hp
  rw [exec_loadForms rd rs1 imm s p hp, hwidth]
  refine ⟨effectiveAddress_eq_ofInt _ _, ?fields, fun halign hin => ?loads,
    faults_of_raises_check fun _ => loadWith_of_check_some rfl⟩
  case fields =>
    rw [encode_loadForms rd rs1 imm p hp, bundle_loadForms rd rs1 imm p hp]
    exact ⟨opcodeOf_encodeI .., funct3Of_encodeI .., rdOf_encodeI .., rs1Of_encodeI .., immIOf_encodeI .., rfl⟩
  case loads =>
    rw [loadWith_eq_retire rfl hload halign hin]
    exact retire_frame s rd _

/-! ### Stores (R261–R263) -/

section
variable {k : MemKind} {i : Instr} {rs1 rs2 : Reg} {imm : BitVec 12} {s : State} {a : Word}
  (ha : effectiveAddress (s.x rs1) imm = a)
include ha

theorem storeWith_of_check_some {f : FaultKind} (h : accessCheck s.cfg a k.width = some f) :
    storeWith k i rs1 rs2 imm s = s.raise f a (encode i) := by
  simp only [storeWith, ha, h]

theorem storeWith_of_check_none (h : accessCheck s.cfg a k.width = none) :
    storeWith k i rs1 rs2 imm s
      = .next ((s.setDmem (s.dmem.store a k.width (s.x rs2))).noteStore a).advance := by
  simp only [storeWith, ha, h]

/-- An aligned store inside data memory writes the low bytes of `x[rs2]`, and keeps every other byte, every register
and everything else but the pc and the record of stored words (R91, R253). -/
theorem storeWith_frame (hwf : s.dmem.wf = true) (hk : accessWidth k.width)
    (halign : a.toNat % k.width = 0) (hin : a.toNat < 4 * s.cfg.memWords) :
    ∃ t, storeWith k i rs1 rs2 imm s = .next t ∧ regsKept s t ∧ fellThrough s t ∧ coreKept s t
      ∧ ∀ b, t.dmem.byte b =
          if a.toNat ≤ b ∧ b < a.toNat + k.width then byteLane (s.x rs2) (b - a.toNat)
          else s.dmem.byte b := by
  refine ⟨_, storeWith_of_check_none ha (accessCheck_eq_none.2 ⟨halign, hin⟩), fun _ => rfl,
    nextPc_eq_ofNat s.pc, ?_, Memory.byte_store hwf hk halign (s.x rs2)⟩
  exact ⟨⟨rfl, fun _ => rfl, rfl, rfl, rfl, rfl, rfl, rfl, rfl, rfl⟩, rfl, rfl, rfl⟩

end

section
variable (rs1 rs2 : Reg) (imm : BitVec 12)

theorem encode_storeForms : ∀ p ∈ storeForms rs1 rs2 imm, encode p.1 = encodeS imm rs2 rs1 p.2.2.2 := by
  simp only [storeForms, List.forall_mem_cons]
  exact ⟨rfl, rfl, rfl, nofun⟩

theorem bundle_storeForms :
    ∀ p ∈ storeForms rs1 rs2 imm, Instr.bundle p.1 = bundleStore p.2.1 rs1 rs2 imm := by
  simp only [storeForms, List.forall_mem_cons]
  exact ⟨rfl, rfl, rfl, nofun⟩

theorem exec_storeForms (s : State) :
    ∀ p ∈ storeForms rs1 rs2 imm, exec p.1 s = storeWith p.2.1 p.1 rs1 rs2 imm s := by
  simp only [storeForms, List.forall_mem_cons]
  exact ⟨rfl, rfl, rfl, nofun⟩

theorem kind_storeForms :
    ∀ p ∈ storeForms rs1 rs2 imm, accessWidth p.2.1.width ∧ p.2.2.1 = p.2.1.width := by
  simp only [storeForms, List.forall_mem_cons]
  exact ⟨⟨.inl rfl, rfl⟩, ⟨.inr (.inl rfl), rfl⟩, ⟨.inr (.inr rfl), rfl⟩, nofun⟩

end

/-- Settles O8: every store form is an S-format word; it writes its bytes when the check passes, and raises what the
check finds otherwise. -/
theorem storesWriteOrFault : Obligations.StoresWriteOrFault := by
  intro s rs1 rs2 imm hwf p hp a report
  obtain ⟨hk, hwidth⟩ := kind_storeForms rs1 rs2 imm p hp
  rw [exec_storeForms rs1 rs2 imm s p hp, hwidth]
  refine ⟨effectiveAddress_eq_ofInt _ _, ?_, storeWith_frame rfl hwf hk,
    faults_of_raises_check fun _ => storeWith_of_check_some rfl⟩
  rw [encode_storeForms rs1 rs2 imm p hp, bundle_storeForms rs1 rs2 imm p hp]
  exact ⟨opcodeOf_encodeS .., funct3Of_encodeS .., rs1Of_encodeS .., rs2Of_encodeS .., immSOf_encodeS .., rfl⟩

end Sys2Proof.Machine
end

section
/-! Branches and jumps (43_control_transfer.md R280–R292): targets in integer arithmetic, what a transfer leaves in the
state, and for each family of forms the fields of its words and what it executes. -/

namespace Sys2Proof.Machine

open Sys2Proof.Spec

/-! ### Targets and the predictor entry -/

/-- A target is the sum of its base and the signed offset, modulo 2^32 (R281). -/
theorem add_signExtend_eq_ofInt {n : Nat} (a : Word) (off : BitVec n) :
    a + off.signExtend 32 = BitVec.ofInt 32 (a.toNat + off.toInt) := by
  rw [BitVec.ofInt_add, BitVec.ofInt_natCast, BitVec.ofNat_toNat, BitVec.setWidth_eq]
  rfl

/-- Clearing bit 0 rounds down to an even number (R281). -/
theorem jumpTarget_eq_ofNat (v : Word) : jumpTarget v = BitVec.ofNat 32 (2 * (v.toNat / 2)) := by
  have hshift : jumpTarget v = v >>> 1 <<< 1 := (BitVec.shiftLeft_ushiftRight (x := v) (n := 1)).symm
  rw [hshift, shiftLeft_eq_ofNat, BitVec.toNat_ushiftRight, Nat.shiftRight_eq_div_pow, Nat.mul_comm]
  rfl

theorem targetMisaligned_iff (a : Word) : targetMisaligned a = true ↔ a.toNat % 4 ≠ 0 := by
  rw [targetMisaligned_eq, decide_eq_true_iff]

/-- One level toward the outcome, in numbers (R376). -/
theorem toNat_moveLevel (l : BitVec 2) (taken : Bool) :
    (moveLevel l taken).toNat = if taken then min 3 (l.toNat + 1) else l.toNat - 1 := by
  decide +revert

theorem trained_trainBranch {s : State} (h : sparseWf predReset s.ptab = true) (taken : Bool) (a : Word) :
    trained s ((s.trainBranch taken).setPc a) taken := by
  intro j
  rw [State.setPc_ptab, State.trainBranch_ptab, level_updatePredictor h, apply_ite BitVec.toNat, toNat_moveLevel]
  rfl

/-! ### A branch of any form (R280, R284) -/

section
variable {op : AluOp} {flip taken : Bool} {i : Instr} {rs1 rs2 : Reg} {off : BitVec 13} {s : State} {a : Word}
  (ht : branchTaken (alu op (s.x rs1) (s.x rs2)) flip = taken) (ha : branchTarget s.pc off = a)
include ht ha

theorem branchWith_of_misaligned (h : taken = true ∧ a.toNat % 4 ≠ 0) :
    branchWith op flip i rs1 rs2 off s = s.raise .misalignedTarget a (encode i) := by
  subst ht ha
  rw [← targetMisaligned_iff] at h
  exact (branchWith_cases op flip i rs1 rs2 off s).elim (fun hf => hf.2.2) fun hn => absurd h hn.1

theorem branchWith_of_not_misaligned (h : ¬ (taken = true ∧ a.toNat % 4 ≠ 0)) :
    branchWith op flip i rs1 rs2 off s
      = .next ((s.trainBranch taken).setPc (if taken then a else nextPc s.pc)) := by
  subst ht ha
  rw [← targetMisaligned_iff] at h
  exact (branchWith_cases op flip i rs1 rs2 off s).elim (fun hf => absurd ⟨hf.1, hf.2.1⟩ h) fun hn => hn.2

/-- A branch that makes no misaligned transfer moves the pc, trains the predictor and keeps everything else. -/
theorem branchWith_frame (h : ¬ (taken = true ∧ a.toNat % 4 ≠ 0)) :
    ∃ t, branchWith op flip i rs1 rs2 off s = .next t
      ∧ t.pc = (if taken then a else BitVec.ofNat 32 (s.pc.toNat + 4))
      ∧ regsKept s t ∧ dataKept s t ∧ microKept s t ∧ t.f = s.f ∧ t.status = s.status
      ∧ (sparseWf predReset s.ptab = true → trained s t taken) := by
  have hnext := branchWith_of_not_misaligned (i := i) ht ha h
  refine ⟨_, hnext, ?_, fun _ => rfl, branchWith_dataKept hnext, ?_, rfl, rfl,
    fun hwf => trained_trainBranch hwf _ _⟩
  · rw [State.setPc_pc, nextPc_eq_ofNat]
  · exact ⟨rfl, fun _ => rfl, rfl, rfl, rfl, rfl, rfl, rfl, rfl, rfl⟩

end

/-! ### The six branches (R285–R290) -/

/-- The difference of equal words is 0 (R285, R286). -/
theorem branchTaken_sub (a b : Word) (flip : Bool) : branchTaken (a - b) flip = (decide (a ≠ b) ^^ flip) := by
  have hsub : (a - b != 0#32) = decide (a ≠ b) := by
    rw [Bool.eq_iff_iff, bne_iff_ne, decide_eq_true_iff]
    exact sub_ne_zero
  rw [branchTaken, hsub]

/-- A comparison's result word is 0 exactly when it fails (R287–R290). -/
theorem branchTaken_boolWord (p flip : Bool) : branchTaken (boolWord p) flip = (p ^^ flip) := by
  cases p <;> rfl

section
variable (s : State) (rs1 rs2 : Reg) (off : BitVec 13)

theorem encode_branchForms : ∀ p ∈ branchForms s rs1 rs2 off, encode p.1 = encodeB off rs2 rs1 p.2.2.1 := by
  simp only [branchForms, List.forall_mem_cons]
  exact ⟨rfl, rfl, rfl, rfl, rfl, rfl, nofun⟩

theorem wf_branchForms : ∀ p ∈ branchForms s rs1 rs2 off, p.1.wf = evenOffset off := by
  simp only [branchForms, List.forall_mem_cons]
  exact ⟨rfl, rfl, rfl, rfl, rfl, rfl, nofun⟩

theorem bundle_branchForms : ∀ p ∈ branchForms s rs1 rs2 off,
    Instr.bundle p.1 = bundleBranch p.2.2.2.1 p.2.2.2.2 rs1 rs2 off := by
  simp only [branchForms, List.forall_mem_cons]
  exact ⟨rfl, rfl, rfl, rfl, rfl, rfl, nofun⟩

theorem exec_branchForms : ∀ p ∈ branchForms s rs1 rs2 off,
    exec p.1 s = branchWith p.2.2.2.1 p.2.2.2.2 p.1 rs1 rs2 off s := by
  simp only [branchForms, List.forall_mem_cons]
  exact ⟨rfl, rfl, rfl, rfl, rfl, rfl, nofun⟩

/-- The ALU result and the flip decide what the branch's own comparison says (R280). -/
theorem taken_branchForms : ∀ p ∈ branchForms s rs1 rs2 off,
    branchTaken (alu p.2.2.2.1 (s.x rs1) (s.x rs2)) p.2.2.2.2 = p.2.1 := by
  simp only [branchForms, List.forall_mem_cons]
  refine ⟨?beq, ?bne, ?blt, ?bge, ?bltu, ?bgeu, nofun⟩
  case beq | bne => simp [alu, branchTaken_sub]
  case blt | bge => simp [alu, branchTaken_boolWord, BitVec.slt, ← decide_not]
  case bltu | bgeu => simp [alu, branchTaken_boolWord, BitVec.ult, ← decide_not]

end

theorem getLsbD_zero_of_evenOffset {n : Nat} {off : BitVec n} (h : evenOffset off = true) : off.getLsbD 0 = false :=
  (Bool.not_eq_true' _).mp h

/-- Settles O12: every branch form is a B-format word, and is a branch whose ALU result and flip decide as its own
comparison does. -/
theorem branchesTransferOrFault : Obligations.BranchesTransferOrFault := by
  intro s rs1 rs2 off p hp target
  have htarget : branchTarget s.pc off = target := add_signExtend_eq_ofInt s.pc off
  have htaken := taken_branchForms s rs1 rs2 off p hp
  rw [exec_branchForms s rs1 rs2 off p hp]
  refine ⟨?_, branchWith_frame htaken htarget,
    fun ht hmis => branchWith_of_misaligned htaken htarget ⟨ht, hmis⟩⟩
  rw [encode_branchForms s rs1 rs2 off p hp, wf_branchForms s rs1 rs2 off p hp, bundle_branchForms s rs1 rs2 off p hp]
  exact ⟨opcodeOf_encodeB .., funct3Of_encodeB .., rs1Of_encodeB .., rs2Of_encodeB ..,
    fun heven => offBOf_encodeB _ _ _ _ (getLsbD_zero_of_evenOffset heven), rfl, rfl⟩

/-! ### The jumps (R291, R292) -/

section
variable {i : Instr} {rd : Reg} {res : Word} {s : State} {a : Word} (ha : jumpTarget res = a)
include ha

theorem jumpWith_of_misaligned (h : a.toNat % 4 ≠ 0) :
    jumpWith i rd res s = s.raise .misalignedTarget a (encode i) := by
  subst ha
  exact (jumpWith_cases i rd res s).elim (fun hf => hf.2)
    fun hn => absurd ((targetMisaligned_iff _).2 h) (ne_true_of_eq_false hn.1)

/-- A jump to an aligned target links the fall-through address and keeps everything else but the pc. -/
theorem jumpWith_frame (h : a.toNat % 4 = 0) :
    ∃ t, jumpWith i rd res s = .next t ∧ wroteReg s t rd (BitVec.ofNat 32 (s.pc.toNat + 4)) ∧ t.pc = a
      ∧ dataKept s t ∧ coreKept s t := by
  subst ha
  have hnext : jumpWith i rd res s = .next ((s.writeReg rd (nextPc s.pc)).setPc (jumpTarget res)) :=
    (jumpWith_cases i rd res s).elim (fun hf => absurd h ((targetMisaligned_iff _).1 hf.1)) fun hn => hn.2
  refine ⟨_, hnext, fun r => ?_, rfl, jumpWith_dataKept hnext, ?_⟩
  · rw [State.x_setPc, State.x_writeReg, nextPc_eq_ofNat]
  · exact ⟨⟨rfl, fun _ => rfl, rfl, rfl, rfl, rfl, rfl, rfl, rfl, rfl⟩, rfl, rfl, rfl⟩

end

theorem exec_jal (s : State) (rd : Reg) (off : BitVec 21) :
    exec (.jal rd off) s = jumpWith (.jal rd off) rd (BitVec.ofInt 32 (s.pc.toNat + off.toInt)) s := by
  rw [← add_signExtend_eq_ofInt]
  rfl

/-- The sum is of the old `x[rs1]` (R292). -/
theorem exec_jalr (s : State) (rd rs1 : Reg) (imm : BitVec 12) :
    exec (.jalr rd rs1 imm) s = jumpWith (.jalr rd rs1 imm) rd (BitVec.ofInt 32 ((s.x rs1).toNat + imm.toInt)) s := by
  rw [← add_signExtend_eq_ofInt]
  rfl

/-- Settles O13: JAL is a J-format and JALR an I-format word, and both are jumps to their sum with bit 0 cleared. -/
theorem jumpsLinkAndTransferOrFault : Obligations.JumpsLinkAndTransferOrFault := by
  intro s rd rs1 off imm p hp target
  have htarget : jumpTarget p.2 = target := jumpTarget_eq_ofNat p.2
  have hexec : exec p.1 s = jumpWith p.1 rd p.2 s := by
    simp only [List.mem_cons, List.not_mem_nil, or_false] at hp
    rcases hp with rfl | rfl
    · exact exec_jal s rd off
    · exact exec_jalr s rd rs1 imm
  rw [hexec]
  refine ⟨?_, jumpWith_frame htarget, jumpWith_of_misaligned htarget⟩
  exact ⟨opcodeOf_encodeJ .., rdOf_encodeJ .., fun heven => offJOf_encodeJ _ _ (getLsbD_zero_of_evenOffset heven),
    opcodeOf_encodeI .., funct3Of_encodeI .., rdOf_encodeI .., rs1Of_encodeI .., immIOf_encodeI ..⟩

end Sys2Proof.Machine
end

section
/-! The system-halt class at the level of one instruction (44_system_halt.md R310–R313, R317): a halt changes only the
status and the halt latch, and a run that has ended does not change. -/

namespace Sys2Proof.Machine

open Sys2Proof.Spec

/-- A halt keeps everything but the status and the halt latch (R310, R313). -/
theorem haltStep_frame (s : State) :
    s.haltStep.status = .halted ∧ s.haltStep.f = { s.f with halted := true } ∧ s.haltStep.pc = s.pc
      ∧ regsKept s s.haltStep ∧ dataKept s s.haltStep ∧ microKept s s.haltStep ∧ s.haltStep.ptab = s.ptab :=
  ⟨rfl, rfl, rfl, fun r => State.x_haltStep s r, ⟨fun _ => rfl, rfl, rfl⟩,
    ⟨rfl, fun _ => rfl, rfl, rfl, rfl, rfl, rfl, rfl, rfl, rfl⟩, rfl⟩

theorem exec_halt {i : Instr} (hi : i ∈ [Instr.ecall, Instr.ebreak]) (s : State) :
    exec i s = .next s.haltStep := by
  simp only [List.mem_cons, List.not_mem_nil, or_false] at hi
  rcases hi with rfl | rfl <;> rfl

/-- Settles O14: both words are whole constants, and both instructions take the one halting step. -/
theorem haltInstructionsEndTheRun : Obligations.HaltInstructionsEndTheRun :=
  ⟨rfl, rfl, fun s _ hi => ⟨s.haltStep, exec_halt hi s, haltStep_frame s⟩⟩

/-! ### Ended runs (R317) -/

section
variable {s : State} (h : s.status ≠ .running)
include h

theorem step_of_ended : step s = .next s := if_pos h

theorem tick_of_ended : tick s = .next s := if_pos h

theorem traceRecord_of_ended : s.traceRecord = none := by
  simp [State.traceRecord, h]

/-- The harness is handed the same state, no record and the status the run ended with. -/
theorem harnessStep_of_ended : harnessStep s = .ok (s, none, s.status) := by
  simp [harnessStep, h, nextTick_of_ended h, traceRecord_of_ended h]

end

/-- Settles O15: each of the three looks at the status first. -/
theorem endedRunsDoNotChange : Obligations.EndedRunsDoNotChange :=
  fun _ h => ⟨step_of_ended h, tick_of_ended h, harnessStep_of_ended h⟩

end Sys2Proof.Machine
end

section
/-! The occupancy counters over one tick (45_occupancy_bypass.md R330–R343): an entry keeps its claim from stage to
stage, the register Decode claims is the new entry's, and where the counters count the claims in flight no asserted
invariant fails. -/

namespace Sys2Proof.Machine

/-! ### Claims, stage by stage (R332) -/

theorem releaseTarget_of_live {n : Entry} (h : n.live = true) : n.releaseTarget = n.c.dest := by
  simp [Entry.releaseTarget, Entry.holdsClaim, valid_of_live h, fault_of_live h]

theorem releaseTarget_of_not_valid {n : Entry} (h : n.valid = false) : n.releaseTarget = none := by
  simp [Entry.releaseTarget, Entry.holdsClaim, h]

/-- Nothing claims x0 (R334). -/
theorem releaseTarget_ne_zero (n : Entry) : n.releaseTarget ≠ some 0#5 := by
  unfold Entry.releaseTarget Bundle.dest
  split_ifs <;> simp_all

theorem memoryStage_of_not_valid {dmem : Memory} {m : MemoryReg} (h : m.valid = false) :
    memoryStage dmem m = .bubble := by
  simp [memoryStage, h]

theorem toMemoryReg_memoryStage_of_valid {dmem : Memory} {m : MemoryReg} (h : m.valid = true) :
    (memoryStage dmem m).toMemoryReg = m := by
  simp [memoryStage, h]

theorem releaseTarget_memoryStage (dmem : Memory) (m : MemoryReg) :
    (memoryStage dmem m).releaseTarget = m.releaseTarget := by
  cases hv : m.valid with
  | false => rw [memoryStage_of_not_valid hv, releaseTarget_of_not_valid hv]; rfl
  | true => rw [toMemoryReg_memoryStage_of_valid hv]

theorem fromExecute_of_accessCheck {cfg : Config} {a : Word} {n : Nat} {k : FaultKind}
    (h : accessCheck cfg a n = some k) : k.fromExecute = true := by
  unfold accessCheck at h
  split_ifs at h <;> cases h <;> rfl

/-- The faults Execute raises are of the kinds that keep the claim (R332, R407). -/
theorem fromExecute_of_signalled {cfg : Config} {e : ExecuteReg} {res : Word} {k : FaultKind} {a : Word}
    (h : (executeSignals cfg e res).2 = some (k, a)) : k.fromExecute = true := by
  cases hb : e.c.isBranch with
  | true =>
    rw [signalled_branch hb] at h
    split_ifs at h
    cases h; rfl
  | false =>
    cases hu : e.c.uncond with
    | true =>
      rw [signalled_jump hb hu] at h
      split_ifs at h
      cases h; rfl
    | false =>
      by_cases hm : e.c.mem = .none
      · rw [signalled_none hb hu hm] at h; cases h
      · rw [signalled_access hb hu hm, Option.map_eq_some_iff] at h
        obtain ⟨k', hk, heq⟩ := h
        cases heq
        exact fromExecute_of_accessCheck hk

theorem executeStage_of_not_valid {cfg : Config} {e : ExecuteReg} (h : e.valid = false) :
    executeStage cfg e = { next := .bubble, flush := none, exfault := none } := by
  simp [executeStage, h]

/-- A marker goes to M as it is (R407). -/
theorem toEntry_next_of_marker {cfg : Config} {e : ExecuteReg} (hv : e.valid = true) {k : FaultKind}
    (hf : e.fault = some k) : (executeStage cfg e).next.toEntry = e.toEntry := by
  simp [executeStage, hv, hf]

/-- A live entry that faults goes to M as a marker of the fault, with its bundle (R407). -/
theorem toEntry_next_of_fault {cfg : Config} {e : ExecuteReg} (hl : e.live = true) {k : FaultKind} {a : Word}
    (hx : (executeSignals cfg e (aluResult e)).2 = some (k, a)) :
    (executeStage cfg e).next.toEntry = { e.toEntry with fault := some k, faultAddr := a } := by
  simp only [aluResult] at hx
  simp [executeStage, valid_of_live hl, fault_of_live hl, hx]

theorem live_executedEntry {e : ExecuteReg} (hl : e.live = true) : (executedEntry e).live = true :=
  live_iff.2 ⟨valid_of_live (n := e.toEntry) hl, rfl⟩

/-- Whether or not it faults there, an entry leaves Execute with the claim it brought (R332). -/
theorem releaseTarget_executeStage (cfg : Config) (e : ExecuteReg) :
    (executeStage cfg e).next.releaseTarget = e.releaseTarget := by
  cases hv : e.valid with
  | false => rw [executeStage_of_not_valid hv, releaseTarget_of_not_valid hv]; rfl
  | true =>
    cases hf : e.fault with
    | some k => rw [toEntry_next_of_marker hv hf]
    | none =>
      have hl : e.live = true := live_iff.2 ⟨hv, hf⟩
      rw [releaseTarget_of_live hl]
      cases hx : (executeSignals cfg e (aluResult e)).2 with
      | none =>
        rw [next_of_noFault hl hx]
        exact releaseTarget_of_live (live_executedEntry hl)
      | some f =>
        rw [toEntry_next_of_fault hl hx]
        simp [Entry.releaseTarget, Entry.holdsClaim, hv, fromExecute_of_signalled hx]

/-! ### What Decode issues and claims (R396–R399, R412, R413) -/

/-- An issue is a live entry of a legal word, while Fetch is not halted. -/
theorem decodeStage_eq_issue {s : State} {e : ExecuteReg} (h : decodeStage s = .issue e) :
    s.f.halted = false ∧ e.live = true ∧ decodeBundle e.word = some e.c := by
  unfold decodeStage at h
  split_ifs at h with hidle
  have hhalted : s.f.halted = false := by
    rw [Bool.or_eq_true, not_or] at hidle
    exact Bool.eq_false_iff.2 hidle.2
  split at h
  · cases h
  next c hc =>
    unfold State.tryIssue at h
    split at h <;> cases h
    exact ⟨hhalted, rfl, hc⟩

/-- Decode's own markers hold no claim (R397). -/
theorem decodeStage_eq_marker {s : State} {e : ExecuteReg} (h : decodeStage s = .marker e) :
    e.holdsClaim = false := by
  unfold decodeStage at h
  split_ifs at h
  · cases h; rfl
  · split at h
    · cases h; rfl
    · unfold State.tryIssue at h
      split at h <;> cases h

section
variable {s : State} {a : Word} {fd : DecodeReg} {x : ExecuteOut} {o : DecodeOut}

/-- What Decode issues goes to E unless Execute squashes, predicted taken or not. -/
theorem selectNext_e_of_issue (hx : x.squash = false) {e : ExecuteReg} :
    (selectNext s a fd x (.issue e)).e = e := by
  simp only [selectNext, hx, Bool.false_eq_true, if_false]
  split <;> rfl

/-- The claim made is that of the entry E takes. -/
theorem releaseTarget_selectNext (hmarker : ∀ e, o = .marker e → e.holdsClaim = false)
    (hissue : ∀ e, o = .issue e → e.live = true) :
    (selectNext s a fd x o).e.releaseTarget = (selectNext s a fd x o).ct := by
  cases hx : x.squash with
  | true => simp only [selectNext, hx, if_true]; rfl
  | false =>
    simp only [selectNext, hx, Bool.false_eq_true, if_false]
    cases o with
    | idle | stall => rfl
    | marker e => simp [Entry.releaseTarget, hmarker e rfl]
    | issue e =>
      dsimp only
      split <;> exact releaseTarget_of_live (hissue e rfl)

/-- No row of R412 and R413 selects a redirect and a stall (R417). -/
theorem selectNext_redirect_stall :
    ((selectNext s a fd x o).f.redirValid && (selectNext s a fd x o).f.stall) = false := by
  cases hx : x.squash with
  | true => simp [selectNext, hx]
  | false =>
    simp only [selectNext, hx, Bool.false_eq_true, if_false]
    cases o with
    | idle | stall | marker => rfl
    | issue e => dsimp only; split <;> simp

end

theorem releaseTarget_selection (s : State) : s.selection.e.releaseTarget = s.selection.ct :=
  releaseTarget_selectNext (fun _ h => decodeStage_eq_marker h) fun _ h => (decodeStage_eq_issue h).2.1

/-! ### Committing a claim and a release (R333) -/

/-- One if `target` is register `r`. -/
def claimOn (target : Option Reg) (r : Reg) : Nat := if target = some r then 1 else 0

theorem Entry.claims_eq (n : Entry) (r : Reg) : n.claims r = claimOn n.releaseTarget r := rfl

theorem claimOn_none (r : Reg) : claimOn none r = 0 := rfl

theorem claimOn_self (r : Reg) : claimOn (some r) r = 1 := if_pos rfl

theorem claimOn_of_ne {r q : Reg} (h : r ≠ q) : claimOn (some r) q = 0 := if_neg (by simpa using h)

theorem claimOn_le_one (target : Option Reg) (r : Reg) : claimOn target r ≤ 1 := by
  unfold claimOn
  split_ifs <;> omega

section
variable {cnt : Counters} {r : Reg}

theorem count_put_of_ne {q : Reg} {v : BitVec 2} (h : q ≠ r) : (cnt.put r v).count q = cnt.count q :=
  (count_put cnt r q v).trans (if_neg fun hc => h hc.1)

variable (h0 : r ≠ 0#5)
include h0

theorem count_put_self {v : BitVec 2} : (cnt.put r v).count r = v :=
  (count_put cnt r r v).trans (if_pos ⟨rfl, h0⟩)

theorem claim_ok (h : (cnt.count r).toNat < 3) : ∃ cnt', cnt.claim r = .ok cnt' ∧
    ∀ q, (cnt'.count q).toNat = (cnt.count q).toNat + claimOn (some r) q := by
  refine ⟨_, if_neg fun h3 => by simp [h3] at h, fun q => ?_⟩
  by_cases hq : q = r
  · subst hq
    rw [count_put_self h0, claimOn_self]
    bv_omega
  · rw [count_put_of_ne hq, claimOn_of_ne (Ne.symm hq)]
    rfl

theorem release_ok (h : 0 < (cnt.count r).toNat) : ∃ cnt', cnt.release r = .ok cnt' ∧
    ∀ q, (cnt'.count q).toNat + claimOn (some r) q = (cnt.count q).toNat := by
  refine ⟨_, if_neg fun hz => by simp [hz] at h, fun q => ?_⟩
  by_cases hq : q = r
  · subst hq
    rw [count_put_self h0, claimOn_self]
    bv_omega
  · rw [count_put_of_ne hq, claimOn_of_ne (Ne.symm hq)]
    rfl

end

/-- A claim that leaves room and a release that finds a claim commit, and each counter moves by what was claimed and
released on it. -/
theorem occupancyCommit_ok {cnt : Counters} {ct rt : Option Reg} (hct : ct ≠ some 0#5) (hrt : rt ≠ some 0#5)
    (hmax : ∀ q, (cnt.count q).toNat + claimOn ct q ≤ 3 + claimOn rt q)
    (hmin : ∀ q, claimOn rt q ≤ (cnt.count q).toNat) :
    ∃ cnt', occupancyCommit cnt ct rt = .ok cnt' ∧
      ∀ q, (cnt'.count q).toNat + claimOn rt q = (cnt.count q).toNat + claimOn ct q := by
  cases ct with
  | none =>
    cases rt with
    | none => exact ⟨cnt, rfl, fun _ => rfl⟩
    | some r =>
      have hr := hmin r
      rw [claimOn_self] at hr
      exact release_ok (by simpa using hrt) hr
  | some c =>
    have hc := hmax c
    rw [claimOn_self] at hc
    have hc0 : c ≠ 0#5 := by simpa using hct
    cases rt with
    | none =>
      rw [claimOn_none] at hc
      exact claim_ok hc0 (by omega)
    | some r =>
      by_cases hcr : c = r
      · exact ⟨cnt, if_pos hcr, fun q => by rw [hcr]⟩
      · have hr := hmin r
        rw [claimOn_self] at hr
        rw [claimOn_of_ne (Ne.symm hcr)] at hc
        obtain ⟨mid, hmid, hmidCount⟩ := claim_ok hc0 (cnt := cnt) (by omega)
        obtain ⟨cnt', hcnt', hcount⟩ := release_ok (by simpa using hrt) (cnt := mid) (r := r)
          (by rw [hmidCount]; omega)
        refine ⟨cnt', ?_, fun q => ?_⟩
        · simp only [occupancyCommit, hcr, if_false, hmid, hcnt']
        · rw [hcount, hmidCount]

/-! ### The counters count the claims in flight (R340) -/

theorem countersOk_iff (s : State) : s.countersOk = true ↔
    ∀ r, (s.cnt.count r).toNat = s.e.claims r + s.m.claims r + s.w.claims r := by
  simp only [State.countersOk, List.all_eq_true, List.mem_finRange, true_imp_iff, decide_eq_true_eq]
  exact ⟨fun h r => h r.toFin, fun h i => h _⟩

section
variable {s : State} (hcnt : s.countersOk = true)
include hcnt

/-- At most two entries beside the one in W hold a claim, so a claim has room or W releases the same register. -/
theorem occupancyCommit_of_countersOk :
    ∃ cnt', occupancyCommit s.cnt s.selection.ct s.w.releaseTarget = .ok cnt' ∧
      ∀ r, (cnt'.count r).toNat = s.selection.e.claims r + s.e.claims r + s.m.claims r := by
  rw [countersOk_iff] at hcnt
  simp only [Entry.claims_eq, releaseTarget_selection] at hcnt ⊢
  have hmax : ∀ q, (s.cnt.count q).toNat + claimOn s.selection.ct q ≤ 3 + claimOn s.w.releaseTarget q := by
    intro q
    have := hcnt q
    have := claimOn_le_one s.selection.ct q
    have := claimOn_le_one s.e.releaseTarget q
    have := claimOn_le_one s.m.releaseTarget q
    omega
  have hmin : ∀ q, claimOn s.w.releaseTarget q ≤ (s.cnt.count q).toNat := fun q => by
    have := hcnt q
    omega
  obtain ⟨cnt', hok, hcount⟩ := occupancyCommit_ok
    (releaseTarget_selection s ▸ releaseTarget_ne_zero _) (releaseTarget_ne_zero _) hmax hmin
  refine ⟨cnt', hok, fun r => ?_⟩
  have := hcnt r
  have := hcount r
  omega

/-- No asserted invariant fails (R341). -/
theorem violation_eq_none (hsteer : (s.f.redirValid && s.f.stall) = false) : s.violation = none := by
  obtain ⟨cnt', hok, -⟩ := occupancyCommit_of_countersOk hcnt
  simp [State.violation, hsteer, hok]

/-- Every claim in flight moves one stage on, and the counters keep counting them. -/
theorem countersOk_nextTick (hrun : s.status = .running) : s.nextTick.countersOk = true := by
  obtain ⟨cnt', hok, hcount⟩ := occupancyCommit_of_countersOk hcnt
  have hnext : s.nextTick.cnt = cnt' := by simp [State.nextTick, hrun, hok]
  rw [countersOk_iff]
  intro r
  rw [hnext, hcount, nextTick_e hrun, nextTick_m hrun, nextTick_w hrun]
  simp only [Entry.claims_eq, releaseTarget_executeStage, releaseTarget_memoryStage]

end

theorem nextTick_redirect_stall {s : State} (hrun : s.status = .running) :
    (s.nextTick.f.redirValid && s.nextTick.f.stall) = false := by
  rw [nextTick_f hrun]
  exact selectNext_redirect_stall

end Sys2Proof.Machine
end

section
/-! A halt on its way to WriteBack (44_system_halt.md R314, 47_pipeline.md R410, R505). The three entries ahead of the
halt that issues end no run, so each tick moves it one stage on and no fault comes first; in W it ends the run. -/

namespace Sys2Proof.Machine

open Sys2Proof.Spec

/-! ### Ticks that answer no fault -/

/-- Where `n` ticks answer a state, it is Halted and `n` cycles on; and they never answer a fault. -/
def HaltsIn (n : Nat) (s : State) : Prop :=
  (∀ u, ticks n s = .next u → u.status = .halted ∧ u.cycle = s.cycle + n) ∧ ∀ r, ticks n s ≠ .fault r

theorem haltsIn_zero {s : State} (h : s.status = .halted) : HaltsIn 0 s :=
  ⟨fun u hu => by cases hu; exact ⟨h, rfl⟩, nofun⟩

theorem ticks_succ_of_next {s t : State} (n : Nat) (h : tick s = .next t) : ticks (n + 1) s = ticks n t := by
  simp only [ticks, Host.Core.run, cycleCore, h]

theorem ticks_succ_of_refused {s : State} {r : Refusal} (n : Nat) (h : tick s = .refused r) :
    ticks (n + 1) s = .refused r := by
  simp only [ticks, Host.Core.run, cycleCore, h]

section
variable {s : State} (hrun : s.status = .running) (hst : ∀ f, s.tickStatus ≠ .faulted f)
include hrun hst

/-- A tick whose status is no fault has its next state, or is refused (I7). -/
theorem tick_next_or_refused : tick s = .next s.nextTick ∨ ∃ r, tick s = .refused r := by
  cases h : tick s with
  | next t =>
    obtain ⟨hend, -⟩ | ⟨-, -, rfl, -⟩ := tick_eq_next h
    · exact absurd hrun hend
    · exact .inl rfl
  | refused r => exact .inr ⟨r, rfl⟩
  | fault r =>
    simp only [tick, hrun, ne_eq, not_true, if_false] at h
    split_ifs at h
    split at h
    case h_1 f hf => exact absurd hf (hst f)
    all_goals cases h

theorem haltsIn_succ {n : Nat} (h : HaltsIn n s.nextTick) : HaltsIn (n + 1) s := by
  obtain ⟨hnext, hfault⟩ := h
  rw [nextTick_cycle hrun] at hnext
  rcases tick_next_or_refused hrun hst with ht | ⟨r, ht⟩
  · rw [HaltsIn, ticks_succ_of_next n ht]
    refine ⟨fun u hu => ?_, hfault⟩
    obtain ⟨hstatus, hcycle⟩ := hnext u hu
    exact ⟨hstatus, by omega⟩
  · rw [HaltsIn, ticks_succ_of_refused n ht]
    exact ⟨fun _ hu => (nomatch hu), nofun⟩

end

/-! ### Entries that end no run, and the halt -/

/-- A live entry of the halt class. -/
def Entry.halts (n : Entry) : Prop := n.live = true ∧ n.c = bundleHalt

theorem terminal_of_not_valid {n : Entry} (h : n.valid = false) : n.terminal = false := by
  simp [Entry.terminal, h]

theorem terminal_of_live {n : Entry} (h : n.live = true) : n.terminal = n.c.halt := by
  simp [Entry.terminal, valid_of_live h, fault_of_live h]

theorem live_of_not_terminal {n : Entry} (hv : n.valid = true) (h : n.terminal = false) : n.live = true := by
  simp only [Entry.terminal, hv, Bool.true_and, Bool.or_eq_false_iff, Option.isSome_eq_false_iff,
    Option.isNone_iff_eq_none] at h
  exact live_iff.2 ⟨hv, h.1⟩

theorem terminal_memoryStage {dmem : Memory} {m : MemoryReg} (h : m.terminal = false) :
    (memoryStage dmem m).terminal = false := by
  cases hv : m.valid with
  | false => rw [memoryStage_of_not_valid hv]; rfl
  | true => rwa [toMemoryReg_memoryStage_of_valid hv]

/-- Only a fault raised in Execute makes an entry end the run there. -/
theorem terminal_executeStage {cfg : Config} {e : ExecuteReg} (h : e.terminal = false)
    (hx : (executeStage cfg e).exfault = none) : (executeStage cfg e).next.terminal = false := by
  cases hv : e.valid with
  | false => rw [executeStage_of_not_valid hv]; rfl
  | true =>
    have hl := live_of_not_terminal hv h
    rw [exfault_of_live hl] at hx
    rw [next_of_noFault hl hx, terminal_of_live (live_executedEntry hl), ← h, terminal_of_live hl]
    rfl

/-- A halt raises nothing in Execute. -/
theorem halts_executeStage {cfg : Config} {e : ExecuteReg} (h : e.halts) : (executeStage cfg e).next.halts := by
  obtain ⟨hl, hc⟩ := h
  have hx : (executeSignals cfg e (aluResult e)).2 = none :=
    signalled_none (by rw [hc]; rfl) (by rw [hc]; rfl) (by rw [hc]; rfl)
  rw [next_of_noFault hl hx]
  exact ⟨live_executedEntry hl, hc⟩

theorem halts_memoryStage {dmem : Memory} {m : MemoryReg} (h : m.halts) : (memoryStage dmem m).halts := by
  rwa [toMemoryReg_memoryStage_of_valid (valid_of_live h.1)]

theorem writeBackStatus_of_not_terminal {w : WriteBackReg} (h : w.terminal = false) :
    writeBackStatus w = .running := by
  cases hv : w.valid with
  | false => simp [writeBackStatus, hv]
  | true =>
    have hl := live_of_not_terminal hv h
    rw [terminal_of_live hl] at h
    simp [writeBackStatus, hv, fault_of_live hl, h]

theorem writeBackStatus_of_halts {w : WriteBackReg} (h : w.halts) : writeBackStatus w = .halted := by
  obtain ⟨hl, hc⟩ := h
  simp [writeBackStatus, valid_of_live hl, fault_of_live hl, hc, bundleHalt]

/-- The only row of the halt class is `bundleHalt` (R165, R167). -/
theorem bundleHalt_of_decodeBundle {w : Word} {c : Bundle} (h : decodeBundle w = some c) (hc : c.halt = true) :
    c = bundleHalt := by
  unfold decodeBundle at h
  split at h
  · cases h
    rcases (halt_bundle_iff _).1 hc with rfl | rfl <;> rfl
  · cases h

/-! ### The halt, stage by stage -/

/-- What keeps a running state's tick from failing an asserted invariant (R340, R341, R417). -/
structure Unbroken (s : State) : Prop where
  running : s.status = .running
  counters : s.countersOk = true
  steering : (s.f.redirValid && s.f.stall) = false

namespace Unbroken

variable {s : State} (h : Unbroken s)
include h

theorem tickStatus : s.tickStatus = writeBackStatus s.w := by
  simp only [State.tickStatus, violation_eq_none h.counters h.steering]

section
variable (hw : s.w.terminal = false)
include hw

theorem tickStatus_running : s.tickStatus = .running := by
  rw [h.tickStatus, writeBackStatus_of_not_terminal hw]

theorem nextTick : Unbroken s.nextTick where
  running := (nextTick_status h.running).trans (h.tickStatus_running hw)
  counters := countersOk_nextTick h.counters h.running
  steering := nextTick_redirect_stall h.running

theorem haltsIn_succ {n : Nat} (hn : HaltsIn n s.nextTick) : HaltsIn (n + 1) s :=
  Machine.haltsIn_succ h.running (by simp [h.tickStatus_running hw]) hn

end

theorem haltsIn_of_w (hw : s.w.halts) : HaltsIn 1 s := by
  have hst : s.tickStatus = .halted := h.tickStatus.trans (writeBackStatus_of_halts hw)
  exact Machine.haltsIn_succ h.running (by simp [hst]) (haltsIn_zero ((nextTick_status h.running).trans hst))

theorem haltsIn_of_m (hm : s.m.halts) (hw : s.w.terminal = false) : HaltsIn 2 s := by
  refine h.haltsIn_succ hw ((h.nextTick hw).haltsIn_of_w ?_)
  rw [nextTick_w h.running]
  exact halts_memoryStage hm

theorem haltsIn_of_e (he : s.e.halts) (hm : s.m.terminal = false) (hw : s.w.terminal = false) : HaltsIn 3 s := by
  refine h.haltsIn_succ hw ((h.nextTick hw).haltsIn_of_m ?_ ?_)
  · rw [nextTick_m h.running]
    exact halts_executeStage he
  · rw [nextTick_w h.running]
    exact terminal_memoryStage hm

end Unbroken

/-! ### A coherent state -/

theorem registers_of_coherent {s : State} (h : s.coherent = true) :
    s.countersOk = true ∧ s.haltOk = true ∧ s.fetchOk = true := by
  simp only [State.coherent, State.registersOk, Bool.and_eq_true, and_assoc] at h
  obtain ⟨-, -, -, hcounters, -, -, -, -, -, -, -, -, hhalt, hfetch, -⟩ := h
  exact ⟨hcounters, hhalt, hfetch⟩

theorem unbroken_of_coherent {s : State} (h : s.coherent = true) (hrun : s.status = .running) : Unbroken s := by
  obtain ⟨hcounters, -, hfetch⟩ := registers_of_coherent h
  simp only [State.fetchOk, Bool.and_eq_true, Bool.not_eq_true', and_assoc] at hfetch
  obtain ⟨hsteer, -⟩ := hfetch
  exact ⟨hrun, hcounters, hsteer⟩

/-- While Fetch is not halted, nothing in flight ends the run (R418). -/
theorem not_terminal_of_coherent {s : State} (h : s.coherent = true) (hf : s.f.halted = false) :
    s.e.terminal = false ∧ s.m.terminal = false ∧ s.w.terminal = false := by
  obtain ⟨-, hhalt, -⟩ := registers_of_coherent h
  simp only [State.haltOk, hf, Bool.and_eq_true, beq_iff_eq, and_assoc] at hhalt
  obtain ⟨hlatch, -⟩ := hhalt
  simpa only [Bool.or_eq_false_iff, and_assoc] using hlatch.symm

/-- Settles O51: nothing ahead of the halt ends the run, and the tick that issues it puts it in E. -/
theorem issuedHaltCommits : Obligations.IssuedHaltCommits := by
  intro s e hcoh hrun hissue hhalt hsquash
  have h := unbroken_of_coherent hcoh hrun
  obtain ⟨hf, hl, hbundle⟩ := decodeStage_eq_issue hissue
  obtain ⟨he, hm, hw⟩ := not_terminal_of_coherent hcoh hf
  have hxfault : (executeStage s.cfg s.e).exfault = none := by
    simp only [ExecuteOut.squash, Bool.or_eq_false_iff] at hsquash
    simpa using hsquash.2
  refine h.haltsIn_succ hw ((h.nextTick hw).haltsIn_of_e ?_ ?_ ?_)
  · have hnext : s.nextTick.e = e := by
      rw [nextTick_e hrun, State.selection, hissue]
      exact selectNext_e_of_issue hsquash
    rw [hnext]
    exact ⟨hl, bundleHalt_of_decodeBundle hbundle hhalt⟩
  · rw [nextTick_m hrun]
    exact terminal_executeStage he hxfault
  · rw [nextTick_w hrun]
    exact terminal_memoryStage hm

end Sys2Proof.Machine
end

section
/-! The occupancy counters' update (45_occupancy_bypass.md R333, R334): what one claim and one release leave in each
counter, and the only errors they raise. -/

namespace Sys2Proof.Machine

/-! ### One claim, one release -/

section
variable {cnt cnt' : Counters} {r : Reg}

theorem claim_eq_error_iff {v : Violation} : cnt.claim r = .error v ↔ v = .overflow r ∧ cnt.count r = 3#2 := by
  unfold Counters.claim
  split_ifs with h <;> simp [h, eq_comm]

theorem release_eq_error_iff {v : Violation} : cnt.release r = .error v ↔ v = .underflow r ∧ cnt.count r = 0#2 := by
  unfold Counters.release
  split_ifs with h <;> simp [h, eq_comm]

theorem claim_eq_ok (h : cnt.claim r = .ok cnt') : cnt.count r ≠ 3#2 ∧ cnt' = cnt.put r (cnt.count r + 1#2) := by
  unfold Counters.claim at h
  split_ifs at h with h3
  cases h
  exact ⟨h3, rfl⟩

theorem release_eq_ok (h : cnt.release r = .ok cnt') : cnt.count r ≠ 0#2 ∧ cnt' = cnt.put r (cnt.count r - 1#2) := by
  unfold Counters.release at h
  split_ifs at h with h0
  cases h
  exact ⟨h0, rfl⟩

/-- A claim on x0 counts nothing, so only the other counters are spoken of. -/
theorem count_of_claim_ok (h : cnt.claim r = .ok cnt') {q : Reg} (hq : q ≠ 0#5) :
    (cnt'.count q).toNat = (cnt.count q).toNat + claimOn (some r) q := by
  obtain ⟨h3, rfl⟩ := claim_eq_ok h
  by_cases hr : q = r
  · subst hr
    rw [count_put_self hq, claimOn_self]
    bv_omega
  · rw [count_put_of_ne hr, claimOn_of_ne (Ne.symm hr)]
    rfl

theorem count_of_release_ok (h : cnt.release r = .ok cnt') (q : Reg) :
    (cnt'.count q).toNat + claimOn (some r) q = (cnt.count q).toNat := by
  obtain ⟨h0, rfl⟩ := release_eq_ok h
  by_cases hr : q = r
  · subst hr
    rw [count_put_self (by rintro rfl; exact h0 rfl), claimOn_self]
    bv_omega
  · rw [count_put_of_ne hr, claimOn_of_ne (Ne.symm hr)]
    rfl

/-- A put never touches x0's slot (R334). -/
theorem put_slot_zero (cnt : Counters) (r : Reg) (v : BitVec 2) : (cnt.put r v)[0] = cnt[0] := by
  unfold Counters.put
  split_ifs with hr
  · rfl
  · have h0 : r.toNat ≠ 0 := fun h => hr (BitVec.eq_of_toNat_eq h)
    simp [h0]

end

/-! ### The two together -/

section
variable {cnt : Counters} {ct rt : Option Reg}

/-- The update succeeds in three ways: nothing to do or a claim and a release that cancel, one of the two alone, or
both on different registers, the claim first. -/
theorem occupancyCommit_eq_ok {cnt' : Counters} (h : occupancyCommit cnt ct rt = .ok cnt') :
    (ct = rt ∧ cnt' = cnt) ∨ (∃ c, ct = some c ∧ rt = none ∧ cnt.claim c = .ok cnt')
      ∨ (∃ r, ct = none ∧ rt = some r ∧ cnt.release r = .ok cnt')
      ∨ ∃ c r mid, ct = some c ∧ rt = some r ∧ cnt.claim c = .ok mid ∧ mid.release r = .ok cnt' := by
  cases ct with
  | none =>
    cases rt with
    | none => cases h; exact .inl ⟨rfl, rfl⟩
    | some r => exact .inr (.inr (.inl ⟨r, rfl, rfl, h⟩))
  | some c =>
    cases rt with
    | none => exact .inr (.inl ⟨c, rfl, rfl, h⟩)
    | some r =>
      simp only [occupancyCommit] at h
      split_ifs at h with hcr
      · cases h; exact .inl ⟨by rw [hcr], rfl⟩
      · cases hc : cnt.claim c with
        | error v => rw [hc] at h; cases h
        | ok mid => rw [hc] at h; exact .inr (.inr (.inr ⟨c, r, mid, rfl, rfl, hc, h⟩))

/-- The update fails on a claim that is not cancelled, or on such a release once the claim has gone through. -/
theorem occupancyCommit_eq_error_iff {v : Violation} : occupancyCommit cnt ct rt = .error v ↔
    (∃ c, ct = some c ∧ rt ≠ ct ∧ cnt.claim c = .error v)
      ∨ ∃ r, rt = some r ∧ rt ≠ ct ∧ cnt.release r = .error v ∧ ∀ c, ct = some c → cnt.count c ≠ 3#2 := by
  cases ct with
  | none => cases rt <;> simp [occupancyCommit]
  | some c =>
    cases rt with
    | none => simp [occupancyCommit]
    | some r =>
      by_cases hcr : c = r
      · simp [occupancyCommit, hcr]
      · have hrc : r ≠ c := Ne.symm hcr
        cases hc : cnt.claim c with
        | error u =>
          have h3 := (claim_eq_error_iff.1 hc).2
          simp [occupancyCommit, hcr, hrc, hc, h3]
        | ok mid =>
          obtain ⟨h3, rfl⟩ := claim_eq_ok hc
          have hcount : (cnt.put c (cnt.count c + 1#2)).count r = cnt.count r := count_put_of_ne hrc
          simp [occupancyCommit, hcr, hrc, hc, h3, release_eq_error_iff, hcount]

theorem occupancyCommit_slot_zero {cnt' : Counters} (h : occupancyCommit cnt ct rt = .ok cnt') :
    cnt'[0] = cnt[0] := by
  obtain ⟨-, rfl⟩ | ⟨c, -, -, hc⟩ | ⟨r, -, -, hr⟩ | ⟨c, r, mid, -, -, hc, hr⟩ := occupancyCommit_eq_ok h
  · rfl
  · rw [(claim_eq_ok hc).2, put_slot_zero]
  · rw [(release_eq_ok hr).2, put_slot_zero]
  · rw [(release_eq_ok hr).2, put_slot_zero, (claim_eq_ok hc).2, put_slot_zero]

theorem count_of_occupancyCommit_ok {cnt' : Counters} (h : occupancyCommit cnt ct rt = .ok cnt') {q : Reg}
    (hq : q ≠ 0#5) : (cnt'.count q).toNat + claimOn rt q = (cnt.count q).toNat + claimOn ct q := by
  obtain ⟨rfl, rfl⟩ | ⟨c, rfl, rfl, hc⟩ | ⟨r, rfl, rfl, hr⟩ | ⟨c, r, mid, rfl, rfl, hc, hr⟩ := occupancyCommit_eq_ok h
  · rfl
  · exact count_of_claim_ok hc hq
  · exact count_of_release_ok hr q
  · rw [count_of_release_ok hr q, count_of_claim_ok hc hq]

end

/-- Settles O30: each way to succeed moves its own counters, and each error is a claim's or a release's. -/
theorem occupancyCommitCounts : Obligations.OccupancyCommitCounts := by
  intro cnt ct rt
  refine ⟨fun cnt' h q hq => count_of_occupancyCommit_ok h hq, fun r => ?_, fun r => ?_⟩
  · simp [occupancyCommit_eq_error_iff, claim_eq_error_iff, release_eq_error_iff]
  · simp [occupancyCommit_eq_error_iff, claim_eq_error_iff, release_eq_error_iff]

end Sys2Proof.Machine
end

section
/-! One tick's selection, row by row (47_pipeline.md R412, R413), and what every tick that answers a next state leaves:
the counter invariant, the bypass record, flush and stall apart, and the halt latch. -/

namespace Sys2Proof.Machine

/-! ### The rows of R412 and R413 -/

/-- Fetch's entry in the tick that starts in `s` (R393). -/
def State.fetched (s : State) : DecodeReg := fetchEntry s.cfg s.imem (fetchAddress s.f).1 (fetchAddress s.f).2

section
variable {s : State}

theorem selection_of_squash (hx : (executeStage s.cfg s.e).squash = true) : s.selection =
    { e := .bubble
      d := .bubble
      f := { pc := (fetchAddress s.f).1
             redirValid := (executeStage s.cfg s.e).flush.isSome
             redirTarget := (executeStage s.cfg s.e).flush.getD s.f.redirTarget
             stall := false
             halted := s.f.halted || (executeStage s.cfg s.e).exfault.isSome }
      ct := none } :=
  if_pos hx

variable (hx : (executeStage s.cfg s.e).squash = false)
include hx

theorem selection_of_idle (ho : decodeStage s = .idle) : s.selection =
    { e := .bubble, d := s.fetched, ct := none
      f := { s.f with pc := (fetchAddress s.f).1, redirValid := false, stall := false } } := by
  simp [State.selection, selectNext, hx, ho, State.fetched]

theorem selection_of_stall (ho : decodeStage s = .stall) : s.selection =
    { e := .bubble, d := s.d, ct := none
      f := { s.f with pc := (fetchAddress s.f).1, redirValid := false, stall := true } } := by
  simp [State.selection, selectNext, hx, ho]

variable {e : ExecuteReg}

theorem selection_of_marker (ho : decodeStage s = .marker e) : s.selection =
    { e := e, d := s.fetched, ct := none
      f := { s.f with pc := (fetchAddress s.f).1, redirValid := false, stall := false, halted := true } } := by
  simp [State.selection, selectNext, hx, ho, State.fetched]

theorem selection_of_issue (ho : decodeStage s = .issue e) (hp : predictedRedirect e = none) : s.selection =
    { e := e, d := s.fetched, ct := e.c.dest
      f := { s.f with
        pc := (fetchAddress s.f).1, redirValid := false, stall := false, halted := s.f.halted || e.c.halt } } := by
  simp [State.selection, selectNext, hx, ho, hp, State.fetched]

/-- A branch predicted taken steers Fetch to its target and leaves D empty (R399). -/
theorem selection_of_predicted (ho : decodeStage s = .issue e) {t : Word} (hp : predictedRedirect e = some t) :
    s.selection =
      { e := e, d := .bubble, ct := e.c.dest
        f := { s.f with pc := (fetchAddress s.f).1, redirValid := true, redirTarget := t, stall := false } } := by
  simp [State.selection, selectNext, hx, ho, hp]

end

/-! ### What a tick keeps -/

/-- No row clears the halt latch (R418). -/
theorem selection_halted {s : State} (h : s.f.halted = true) : s.selection.f.halted = true := by
  cases hx : (executeStage s.cfg s.e).squash with
  | true => simp [selection_of_squash hx, h]
  | false =>
    have ho : decodeStage s = .idle := by simp [decodeStage, h]
    rw [selection_of_idle hx ho]
    exact h

theorem not_halted_of_selection {s : State} (h : s.selection.f.halted = false) : s.f.halted = false := by
  by_contra hf
  rw [selection_halted (by simpa using hf)] at h
  cases h

theorem bypassOk_nextTick {s : State} (hrun : s.status = .running) : s.nextTick.bypassOk = true := by
  simp [State.bypassOk, nextTick_bypass hrun, nextTick_e hrun, nextTick_m hrun, nextTick_w hrun]

/-- A tick of a running state that answers a state answers its next state. -/
theorem eq_nextTick_of_tick {s t : State} (hrun : s.status = .running) (h : tick s = .next t) : t = s.nextTick := by
  obtain ⟨hend, -⟩ | ⟨-, -, rfl, -⟩ := tick_eq_next h
  · exact absurd hrun hend
  · rfl

/-- Settles O44: the counters leave room for the claim and hold the one released. -/
theorem noAssertionFails : Obligations.NoAssertionFails :=
  fun _ hcnt hsteer => violation_eq_none hcnt hsteer

/-- Settles O43: the claims move one stage on, the bypass record is made of the new entries, and no row of R412 and
R413 pairs a redirect with a stall or clears the latch. -/
theorem tickKeepsAssertedInvariants : Obligations.TickKeepsAssertedInvariants := by
  intro s t hrun htick
  rw [eq_nextTick_of_tick hrun htick]
  refine ⟨fun hcnt => countersOk_nextTick hcnt hrun, bypassOk_nextTick hrun, nextTick_redirect_stall hrun, fun h => ?_⟩
  rw [nextTick_f hrun]
  exact selection_halted h

/-- Settles O38: the stalled row of R413; a stall latched without a redirect makes Fetch hold its address. -/
theorem stallHoldsDecode : Obligations.StallHoldsDecode := by
  intro s t hrun htick hstall hsquash
  have hsel := selection_of_stall hsquash hstall
  rw [eq_nextTick_of_tick hrun htick, nextTick_e hrun, nextTick_d hrun, nextTick_f hrun, hsel]
  refine ⟨rfl, rfl, rfl, rfl, rfl, ?_⟩
  cases hf : s.f.halted <;> simp [fetchAddress, hf]

end Sys2Proof.Machine
end

section
/-! The cycle machine's invariant (47_pipeline.md R340, R415–R418, R441), taken apart: each clause of `State.coherent`
in the terms proofs use. -/

namespace Sys2Proof.Machine

/-! ### Entries -/

section
variable {n : Entry}

/-- An entry is empty, a marker or live (R15). -/
theorem entry_cases (n : Entry) : n.valid = false ∨ (n.valid = true ∧ ∃ k, n.fault = some k) ∨ n.live = true := by
  cases hv : n.valid with
  | false => exact .inl rfl
  | true =>
    cases hf : n.fault with
    | none => exact .inr (.inr (live_iff.2 ⟨hv, hf⟩))
    | some k => exact .inr (.inl ⟨rfl, k, rfl⟩)

theorem dst_of_not_valid (h : n.valid = false) : n.dst = none := by
  simp [Entry.dst, Entry.live, h]

theorem holdsClaim_of_not_valid (h : n.valid = false) : n.holdsClaim = false := by
  simp [Entry.holdsClaim, h]

theorem holdsClaim_of_live (h : n.live = true) : n.holdsClaim = true := by
  simp [Entry.holdsClaim, valid_of_live h, fault_of_live h]

/-- An entry with a claim has its word's row; one without is a decode or fetch marker, with the all-zero one. -/
theorem bundleOk_iff : n.bundleOk = true ↔
    (n.holdsClaim = true → decodeBundle n.word = some n.c)
      ∧ (n.valid = true → n.holdsClaim = false → n.c = Bundle.zero ∧ n.pred = false) := by
  cases hv : n.valid with
  | false => simp [Entry.bundleOk, Entry.holdsClaim, hv]
  | true => cases hc : n.holdsClaim <;> simp [Entry.bundleOk, hv, hc]

variable {cfg : Config} {imem : Memory}

theorem wordOk_iff : n.wordOk cfg imem = true ↔ (n.valid = true →
    (n.fault = some .fetchFault → n.word = 0#32 ∧ inRange cfg n.pc = false ∧ n.faultAddr = n.pc)
      ∧ (n.fault ≠ some .fetchFault → inRange cfg n.pc = true ∧ n.word = imem.readWord (wordIndex n.pc)
        ∧ (n.fault = some .decodeFault → decodeBundle n.word = none ∧ n.faultAddr = n.pc))) := by
  cases hv : n.valid with
  | false => simp [Entry.wordOk, hv]
  | true =>
    by_cases hf : n.fault = some .fetchFault
    · simp [Entry.wordOk, hv, hf, and_assoc]
    · by_cases hd : n.fault = some .decodeFault <;> simp [Entry.wordOk, hv, hf, hd, and_assoc]

/-- A word that decodes decodes to an instruction's row. -/
theorem exists_bundle_of_decodeBundle {w : Word} {c : Bundle} (h : decodeBundle w = some c) :
    ∃ i, c = Instr.bundle i := by
  unfold decodeBundle at h
  split at h
  · cases h; exact ⟨_, rfl⟩
  · cases h

end

/-! ### Fetch and D -/

/-- D's word is the one at its address, or the address is outside instruction memory (R393). -/
def DecodeReg.fromMemory (d : DecodeReg) (cfg : Config) (imem : Memory) : Prop :=
  d.valid = true →
    (d.poison = true → inRange cfg d.pc = false ∧ d.word = 0#32)
      ∧ (d.poison = false → inRange cfg d.pc = true ∧ d.word = imem.readWord (wordIndex d.pc))

section
variable {s : State}

theorem fetchOk_iff : s.fetchOk = true ↔
    (s.f.redirValid && s.f.stall) = false
      ∧ (s.f.halted = false → s.d.valid = !s.f.redirValid
          ∧ (s.d.valid = true → s.f.pc = if s.f.stall then nextPc s.d.pc else s.d.pc))
      ∧ s.d.fromMemory s.cfg s.imem := by
  simp only [State.fetchOk, DecodeReg.fromMemory, Bool.and_eq_true, and_assoc]
  refine and_congr (by rw [Bool.not_eq_true']) (and_congr ?_ ?_)
  · cases s.f.halted <;> cases s.d.valid <;> simp
  · cases s.d.valid <;> cases s.d.poison <;> simp

theorem haltOk_iff : s.haltOk = true ↔
    s.f.halted = (s.e.terminal || s.m.terminal || s.w.terminal)
      ∧ (s.m.terminal = true → s.e.valid = false)
      ∧ (s.w.terminal = true → s.e.valid = false ∧ s.m.valid = false)
      ∧ (s.f.halted = true → s.f.redirValid = false) := by
  simp only [State.haltOk, Bool.and_eq_true, beq_iff_eq, and_assoc]
  refine and_congr_right fun _ => and_congr ?_ (and_congr ?_ ?_)
  · cases s.m.terminal <;> simp
  · cases s.w.terminal <;> simp
  · cases s.f.halted <;> simp

/-! ### The sequential path -/

theorem wOnPath_iff : s.wOnPath = true ↔ (s.w.valid = true →
    s.w.pc = s.pc ∧ s.w = memoryStage s.dmem (executeStage s.cfg (s.w.toEntry.issuedFrom s.regs)).next
      ∧ memoryCommit s.dmem s.w.toMemoryReg = s.dmem) := by
  cases hv : s.w.valid <;> simp [State.wOnPath, hv, and_assoc]

theorem mOnPath_iff : s.mOnPath = true ↔ (s.m.valid = true →
    s.m.pc = s.pcAfterW ∧ s.m = (executeStage s.cfg (s.m.toEntry.issuedFrom s.regsAfterW)).next) := by
  cases hv : s.m.valid <;> simp [State.mOnPath, hv]

theorem eOnPath_iff : s.eOnPath = true ↔ (s.e.valid = true →
    s.e.pc = s.pcAfterM ∧ s.e = s.e.toEntry.issuedFrom s.regsAfterM) := by
  cases hv : s.e.valid <;> simp [State.eOnPath, hv]

/-- The address of the next instruction Decode will see: the pending redirect's, else D's. -/
def State.steered (s : State) : Word := if s.f.redirValid then s.f.redirTarget else s.d.pc

theorem dOnPath_iff : s.dOnPath = true ↔
    (s.f.halted = false → s.steered = if s.e.valid then s.e.predictedNext else s.pcAfterM) := by
  cases hf : s.f.halted <;> simp [State.dOnPath, State.steered, hf]

end

/-! ### The whole invariant -/

/-- `State.coherent`, clause by clause. -/
structure Coherent (s : State) : Prop where
  memories : s.memoriesOk = true
  aligned : s.pcAligned = true
  zero : s.zeroPinned = true
  counters : s.countersOk = true
  bypass : s.bypassOk = true
  bundleE : s.e.bundleOk = true
  bundleM : s.m.bundleOk = true
  bundleW : s.w.bundleOk = true
  wordE : s.e.wordOk s.cfg s.imem = true
  wordM : s.m.wordOk s.cfg s.imem = true
  wordW : s.w.wordOk s.cfg s.imem = true
  faultE : ∀ k, s.e.fault = some k → k.fromExecute = false
  halt : s.haltOk = true
  fetch : s.fetchOk = true
  pathW : s.wOnPath = true
  pathM : s.mOnPath = true
  pathE : s.eOnPath = true
  pathD : s.dOnPath = true

theorem coherent_iff {s : State} : s.coherent = true ↔ Coherent s := by
  simp only [State.coherent, State.registersOk, Bool.and_eq_true, Option.all_eq_true, Bool.not_eq_true', and_assoc]
  constructor <;>
    (rintro ⟨h1, h2, h3, h4, h5, h6, h7, h8, h9, h10, h11, h12, h13, h14, h15, h16, h17, h18⟩
     exact ⟨h1, h2, h3, h4, h5, h6, h7, h8, h9, h10, h11, h12, h13, h14, h15, h16, h17, h18⟩)

end Sys2Proof.Machine
end

section
/-! What the stages make of one entry (47_pipeline.md R396–R408): what Execute and Memory keep of it, the address behind
it, and what Decode makes of D. -/

namespace Sys2Proof.Machine

/-! ### Execute's entry for M -/

section
variable {cfg : Config} {e : ExecuteReg}

@[simp] theorem toEntry_bubble : ExecuteReg.bubble.toEntry = .bubble := rfl
@[simp] theorem terminal_bubble : Entry.bubble.terminal = false := rfl

theorem executeStage_of_marker (hv : e.valid = true) {k : FaultKind} (hf : e.fault = some k) : executeStage cfg e =
    { next := { toEntry := e.toEntry, res := 0#32, sd := 0#32, act := false }, flush := none, exfault := none } := by
  simp [executeStage, hv, hf]

theorem flush_of_live (hl : e.live = true) :
    (executeStage cfg e).flush = (executeSignals cfg e (aluResult e)).1 := by
  simp [executeStage, aluResult, valid_of_live hl, fault_of_live hl]

/-- Execute changes only the fault of a live entry (R407). -/
theorem toEntry_next_of_live (hl : e.live = true) : (executeStage cfg e).next.toEntry =
    { e.toEntry with
      fault := (executeStage cfg e).exfault.map Prod.fst
      faultAddr := ((executeStage cfg e).exfault.map Prod.snd).getD 0#32 } := by
  cases hx : (executeSignals cfg e (aluResult e)).2 with
  | none => rw [next_of_noFault hl hx, exfault_of_live hl, hx]; rfl
  | some f => rw [toEntry_next_of_fault hl hx, exfault_of_live hl, hx]; rfl

theorem valid_next (cfg : Config) (e : ExecuteReg) : (executeStage cfg e).next.valid = e.valid := by
  obtain hv | ⟨hv, k, hf⟩ | hl := entry_cases e.toEntry
  · rw [executeStage_of_not_valid hv, hv]; rfl
  · rw [toEntry_next_of_marker hv hf]
  · rw [toEntry_next_of_live hl]

theorem pc_next (hv : e.valid = true) : (executeStage cfg e).next.pc = e.pc := by
  obtain hv' | ⟨-, k, hf⟩ | hl := entry_cases e.toEntry
  · rw [hv] at hv'; cases hv'
  · rw [toEntry_next_of_marker hv hf]
  · rw [toEntry_next_of_live hl]

/-- Only a live entry redirects or faults. -/
theorem live_of_squash (hx : (executeStage cfg e).squash = true) : e.live = true := by
  obtain hv | ⟨hv, k, hf⟩ | hl := entry_cases e.toEntry
  · rw [executeStage_of_not_valid hv] at hx; cases hx
  · rw [executeStage_of_marker hv hf] at hx; cases hx
  · exact hl

theorem squash_eq_false : (executeStage cfg e).squash = false ↔
    (executeStage cfg e).flush = none ∧ (executeStage cfg e).exfault = none := by
  simp [ExecuteOut.squash]

theorem fromExecute_of_exfault {k : FaultKind} {a : Word} (hx : (executeStage cfg e).exfault = some (k, a)) :
    k.fromExecute = true := by
  have hl : e.live = true := live_of_squash (cfg := cfg) (by simp [ExecuteOut.squash, hx])
  rw [exfault_of_live hl] at hx
  exact fromExecute_of_signalled hx

/-- An entry ends the run behind Execute if it did before or faults there. -/
theorem terminal_next (cfg : Config) (e : ExecuteReg) :
    (executeStage cfg e).next.terminal = (e.terminal || (executeStage cfg e).exfault.isSome) := by
  obtain hv | ⟨hv, k, hf⟩ | hl := entry_cases e.toEntry
  · rw [executeStage_of_not_valid hv, terminal_of_not_valid hv]; rfl
  · simp [executeStage_of_marker hv hf]
  · simp [Entry.terminal, toEntry_next_of_live hl, valid_of_live hl, fault_of_live hl, Bool.or_comm]

/-- A live entry in M was live in E and raised no fault. -/
theorem executed_of_live_next (hl : (executeStage cfg e).next.live = true) :
    e.live = true ∧ (executeStage cfg e).exfault = none ∧ (executeStage cfg e).next = executedEntry e := by
  obtain hv | ⟨hv, k, hf⟩ | hle := entry_cases e.toEntry
  · rw [executeStage_of_not_valid hv] at hl; cases hl
  · rw [toEntry_next_of_marker hv hf, live_iff, hf] at hl
    cases hl.2
  · have hx : (executeStage cfg e).exfault = none := by
      simpa [toEntry_next_of_live hle] using fault_of_live hl
    exact ⟨hle, hx, next_of_noFault hle (exfault_of_live (cfg := cfg) hle ▸ hx)⟩

theorem dst_next (hx : (executeStage cfg e).exfault = none) : (executeStage cfg e).next.dst = e.dst := by
  obtain hv | ⟨hv, k, hf⟩ | hl := entry_cases e.toEntry
  · rw [executeStage_of_not_valid hv, dst_of_not_valid hv]; rfl
  · rw [toEntry_next_of_marker hv hf]
  · simp [Entry.dst, Entry.live, toEntry_next_of_live hl, hx, fault_of_live hl]

theorem holdsClaim_next (cfg : Config) (e : ExecuteReg) : (executeStage cfg e).next.holdsClaim = e.holdsClaim := by
  obtain hv | ⟨hv, k, hf⟩ | hl := entry_cases e.toEntry
  · rw [executeStage_of_not_valid hv, holdsClaim_of_not_valid hv]; rfl
  · rw [toEntry_next_of_marker hv hf]
  · cases hx : (executeStage cfg e).exfault with
    | none => simp [Entry.holdsClaim, toEntry_next_of_live hl, hx, fault_of_live hl]
    | some f => simp [Entry.holdsClaim, toEntry_next_of_live hl, hx, fault_of_live hl, fromExecute_of_exfault hx]

theorem bundleOk_next (h : e.bundleOk = true) : (executeStage cfg e).next.bundleOk = true := by
  obtain hv | ⟨hv, k, hf⟩ | hl := entry_cases e.toEntry
  · rw [executeStage_of_not_valid hv]; rfl
  · rwa [toEntry_next_of_marker hv hf]
  · rw [bundleOk_iff] at h ⊢
    rw [holdsClaim_next]
    rwa [toEntry_next_of_live hl]

/-- A live entry's faults in Execute are no fetch or decode fault. -/
theorem fault_next_ne (hl : e.live = true) {k : FaultKind} (hk : k.fromExecute = false) :
    (executeStage cfg e).next.fault ≠ some k := by
  intro hfault
  simp only [toEntry_next_of_live hl, Option.map_eq_some_iff] at hfault
  obtain ⟨⟨k', a⟩, hx, rfl⟩ := hfault
  rw [fromExecute_of_exfault hx] at hk
  cases hk

/-- So they ask nothing more of the word. -/
theorem wordOk_next {imem : Memory} (h : e.wordOk cfg imem = true) :
    (executeStage cfg e).next.wordOk cfg imem = true := by
  obtain hv | ⟨hv, k, hf⟩ | hl := entry_cases e.toEntry
  · rw [executeStage_of_not_valid hv]; rfl
  · rwa [toEntry_next_of_marker hv hf]
  · obtain ⟨hrange, hword, -⟩ := (wordOk_iff.1 h (valid_of_live hl)).2 (by simp [fault_of_live hl])
    refine wordOk_iff.2 fun _ => ⟨fun hc => absurd hc (fault_next_ne hl rfl), fun _ => ⟨?_, ?_, fun hc =>
      absurd hc (fault_next_ne hl rfl)⟩⟩ <;> rwa [toEntry_next_of_live hl]

/-- A branch that does not fault redirects exactly when its outcome is not the one predicted (R404). -/
theorem redirect_of_branch {res : Word} (hb : e.c.isBranch = true) (hx : (executeSignals cfg e res).2 = none) :
    (executeSignals cfg e res).1 = if branchTaken res e.c.flip = e.pred then none
      else some (if branchTaken res e.c.flip then e.pc + e.c.imm else nextPc e.pc) := by
  rw [signalled_branch hb] at hx
  have hmis : ¬ (branchTaken res e.c.flip = true ∧ targetMisaligned (e.pc + e.c.imm) = true) := by
    intro hmis
    rw [if_pos hmis] at hx
    cases hx
  simp only [executeSignals, hb, if_true, Bool.and_eq_true, if_neg hmis, bne_iff_ne]
  by_cases heq : branchTaken res e.c.flip = e.pred
  · simp [heq]
  · simp [heq]

/-- Only a branch or a jump redirects (R404, R405). -/
theorem redirect_of_sequential {res : Word} (hb : e.c.isBranch = false) (hu : e.c.uncond = false) :
    (executeSignals cfg e res).1 = none := by
  simp only [executeSignals, hb, hu, Bool.false_eq_true, if_false]
  split_ifs
  · rfl
  · cases accessCheck cfg res e.c.mem.width <;> rfl

/-- A jump redirects unless it faults (R405). -/
theorem redirect_of_jump {res : Word} (hb : e.c.isBranch = false) (hu : e.c.uncond = true) :
    (executeSignals cfg e res).1 =
      if targetMisaligned (jumpTarget res) then none else some (jumpTarget res) := by
  simp only [executeSignals, hb, hu, if_true, Bool.false_eq_true, if_false]
  split_ifs <;> rfl

/-- A redirect and a fault exclude each other (R404–R406). -/
theorem flush_or_exfault_eq_none (cfg : Config) (e : ExecuteReg) :
    (executeStage cfg e).flush = none ∨ (executeStage cfg e).exfault = none := by
  cases hx : (executeStage cfg e).squash with
  | false => exact .inl (squash_eq_false.1 hx).1
  | true =>
    have hl := live_of_squash hx
    rw [flush_of_live hl, exfault_of_live hl]
    cases hb : e.c.isBranch with
    | true =>
      simp only [executeSignals, hb, if_true]
      split_ifs <;> simp
    | false =>
      cases hu : e.c.uncond with
      | true =>
        rw [redirect_of_jump hb hu, signalled_jump hb hu]
        split_ifs <;> simp
      | false => exact .inl (redirect_of_sequential hb hu)

end

/-! ### Memory's entry for W -/

section
variable (dmem : Memory) (m : MemoryReg)

theorem valid_memoryStage : (memoryStage dmem m).valid = m.valid := by
  cases hv : m.valid with
  | false => rw [memoryStage_of_not_valid hv]; rfl
  | true => rw [toMemoryReg_memoryStage_of_valid hv, hv]

theorem terminal_memoryStage_eq : (memoryStage dmem m).terminal = m.terminal := by
  cases hv : m.valid with
  | false => rw [memoryStage_of_not_valid hv, terminal_of_not_valid hv]; rfl
  | true => rw [toMemoryReg_memoryStage_of_valid hv]

theorem dst_memoryStage : (memoryStage dmem m).dst = m.dst := by
  cases hv : m.valid with
  | false => rw [memoryStage_of_not_valid hv, dst_of_not_valid hv]; rfl
  | true => rw [toMemoryReg_memoryStage_of_valid hv]

variable {dmem m}

theorem bundleOk_memoryStage (h : m.bundleOk = true) : (memoryStage dmem m).bundleOk = true := by
  cases hv : m.valid with
  | false => rw [memoryStage_of_not_valid hv]; rfl
  | true => rwa [toMemoryReg_memoryStage_of_valid hv]

theorem wordOk_memoryStage {cfg : Config} {imem : Memory} (h : m.wordOk cfg imem = true) :
    (memoryStage dmem m).wordOk cfg imem = true := by
  cases hv : m.valid with
  | false => rw [memoryStage_of_not_valid hv]; rfl
  | true => rwa [toMemoryReg_memoryStage_of_valid hv]

theorem memoryCommit_of_load (h : m.c.mem.isLoad = true) : memoryCommit dmem m = dmem := by
  simp [memoryCommit, MemKind.isStore_of_isLoad h]

/-- What M's store writes is not what M's load reads, as an entry is at most one of them. -/
theorem memoryStage_memoryCommit : memoryStage (memoryCommit dmem m) m = memoryStage dmem m := by
  cases hm : m.c.mem.isLoad with
  | true => rw [memoryCommit_of_load hm]
  | false => simp [memoryStage, hm]

/-- A store made twice is made once. -/
theorem Memory.store_store (h : dmem.wf = true) (a : Word) (n : Nat) (v : Word) :
    (dmem.store a n v).store a n v = dmem.store a n v := by
  have hstore := Memory.store_wf h a n v
  refine Memory.ext_byte (Memory.store_wf hstore a n v) hstore fun b => ?_
  simp only [Memory.store]
  rw [Memory.byte_writeWord (Memory.writeWord_wf h _ _ _), Memory.byte_writeWord h]
  split_ifs <;> rfl

theorem memoryCommit_memoryCommit (h : dmem.wf = true) (m : MemoryReg) :
    memoryCommit (memoryCommit dmem m) m = memoryCommit dmem m := by
  unfold memoryCommit
  split_ifs
  · exact Memory.store_store h _ _ _
  · rfl

end

/-! ### The entry an entry on the path was issued as (R441) -/

section
variable {cfg : Config} {regs : RegFile}

theorem eq_issuedFrom {e : ExecuteReg} (hf : ∀ k, e.fault = some k → k.fromExecute = false)
    (h1 : e.v1 = if e.c.rs1Valid then regs.read e.c.rs1 else 0#32)
    (h2 : e.v2 = if e.c.rs2Valid then regs.read e.c.rs2 else 0#32) : e = e.toEntry.issuedFrom regs := by
  obtain ⟨⟨valid, pc, word, c, pred, fault, addr⟩, v1, v2⟩ := e
  simp only at hf h1 h2
  cases fault with
  | none => simp [Entry.issuedFrom, h1, h2]
  | some k => simp [Entry.issuedFrom, h1, h2, hf k rfl]

/-- A live entry's fault address plays no part in Execute. -/
theorem executeStage_faultAddr {e : ExecuteReg} (hl : e.live = true) (a : Word) :
    executeStage cfg { e with faultAddr := a } = executeStage cfg e := by
  simp only [executeStage, valid_of_live hl, fault_of_live hl]
  rfl

/-- Execute makes the same of the entry it came from, so an entry on the path stays on it in M. -/
theorem next_issuedFrom {e : ExecuteReg} (hv : e.valid = true) (he : e = e.toEntry.issuedFrom regs) :
    (executeStage cfg e).next = (executeStage cfg ((executeStage cfg e).next.toEntry.issuedFrom regs)).next := by
  obtain hv' | ⟨-, k, hf⟩ | hl := entry_cases e.toEntry
  · rw [hv] at hv'; cases hv'
  · rw [toEntry_next_of_marker hv hf, ← he]
  · have hsame : (executeStage cfg e).next.toEntry.issuedFrom regs = { e with faultAddr := 0#32 } := by
      rw [toEntry_next_of_live hl]
      cases hx : (executeStage cfg e).exfault with
      | none => rw [he]; simp [Entry.issuedFrom, fault_of_live hl]
      | some f => rw [he]; simp [Entry.issuedFrom, fault_of_live hl, fromExecute_of_exfault hx]
    rw [hsame]
    exact congrArg ExecuteOut.next (executeStage_faultAddr hl _).symm

end

/-! ### The address behind an entry (R281, R399, R404, R405) -/

/-- Where Fetch is steered behind `e` once Execute has seen it: its redirect, else its prediction. -/
def ExecuteReg.successor (cfg : Config) (e : ExecuteReg) : Word := (executeStage cfg e).flush.getD e.predictedNext

section
variable {cfg : Config} {e : ExecuteReg}

theorem successor_of_noFlush (h : (executeStage cfg e).flush = none) : e.successor cfg = e.predictedNext := by
  simp [ExecuteReg.successor, h]

/-- The pc a live entry commits (R34, R281, R410). -/
theorem writeBackPc_of_live {m : MemoryReg} (hl : m.live = true) (hh : m.c.halt = false) (a : Word) (dmem : Memory) :
    writeBackPc a (memoryStage dmem m) = if m.c.isBranch then (if m.act then m.pc + m.c.imm else nextPc m.pc)
      else if m.c.uncond then jumpTarget m.res else nextPc m.pc := by
  simp [writeBackPc, toMemoryReg_memoryStage hl, hl, hh]

theorem writeBackPc_of_halt {m : MemoryReg} (hl : m.live = true) (hh : m.c.halt = true) (a : Word) (dmem : Memory) :
    writeBackPc a (memoryStage dmem m) = a := by
  simp [writeBackPc, toMemoryReg_memoryStage hl, hh]

/-- The pc an entry that does not fault commits is the address Execute leaves Fetch steered to. -/
theorem writeBackPc_of_executed (hl : e.live = true) (hx : (executeStage cfg e).exfault = none)
    (hh : e.c.halt = false) (a : Word) (dmem : Memory) :
    writeBackPc a (memoryStage dmem (executeStage cfg e).next) = e.successor cfg := by
  rw [exfault_of_live hl] at hx
  rw [ExecuteReg.successor, flush_of_live hl, next_of_noFault hl hx, writeBackPc_of_live (live_executedEntry hl) hh]
  cases hb : e.c.isBranch with
  | true =>
    rw [redirect_of_branch hb hx]
    by_cases hpred : branchTaken (aluResult e) e.c.flip = e.pred
    · simp [executedEntry, hb, hpred, ExecuteReg.predictedNext]
    · simp [executedEntry, hb, hpred]
  | false =>
    cases hu : e.c.uncond with
    | true =>
      rw [signalled_jump hb hu] at hx
      split_ifs at hx with hmis
      simp [redirect_of_jump hb hu, executedEntry, hb, hu, hmis]
    | false => simp [redirect_of_sequential hb hu, executedEntry, hb, hu, ExecuteReg.predictedNext]

end

end Sys2Proof.Machine
end

section
/-! What Decode reads (45_occupancy_bypass.md R336, R337, R342): a value the hazard test grants is the one the youngest
older instruction in flight leaves in the register. -/

namespace Sys2Proof.Machine

/-! ### Registers behind a WriteBack -/

section
variable {regs : RegFile} {w : WriteBackReg} {r : Reg}

theorem RegFile.read_write (regs : RegFile) (r q : Reg) (v : Word) :
    (regs.write r v).read q = if q = r ∧ q ≠ 0#5 then v else regs.read q :=
  State.x_writeReg { State.reset with regs := regs } r q v

/-- Nothing has x0 for its destination (R166). -/
theorem dst_ne_zero (n : Entry) : n.dst ≠ some 0#5 := by
  unfold Entry.dst Bundle.dest
  split_ifs <;> simp_all

theorem live_of_dst {n : Entry} (h : n.dst = some r) : n.live = true := by
  unfold Entry.dst at h
  split_ifs at h with hl
  exact hl

theorem read_writeBackRegs_of_dst (h : w.dst = some r) : (writeBackRegs regs w).read r = wbValue w := by
  have h0 : r ≠ 0#5 := by rintro rfl; exact dst_ne_zero _ h
  simp [writeBackRegs, h, RegFile.read_write, h0]

theorem read_writeBackRegs_of_ne (h : w.dst ≠ some r) : (writeBackRegs regs w).read r = regs.read r := by
  cases hd : w.dst with
  | none => simp [writeBackRegs, hd]
  | some q =>
    have hq : r ≠ q := by rintro rfl; exact h hd
    simp [writeBackRegs, hd, RegFile.read_write, hq]

end

/-! ### What M forwards (R336) -/

theorem isLoad_of_wbSrc_mem {i : Instr} (h : (Instr.bundle i).wbSrc = .mem) : (Instr.bundle i).mem.isLoad = true := by
  cases i with
  | lb | lh | lw | lbu | lhu => rfl
  | _ => cases h

/-- M forwards what its entry will commit, unless that is a load. -/
theorem wbValue_memoryStage_of_not_load {m : MemoryReg} (hl : m.live = true) (hb : m.bundleOk = true)
    (hm : m.c.mem.isLoad = false) (dmem : Memory) : wbValue (memoryStage dmem m) = fwdM m := by
  obtain ⟨i, hi⟩ := exists_bundle_of_decodeBundle ((bundleOk_iff.1 hb).1 (holdsClaim_of_live hl))
  cases hsrc : m.c.wbSrc with
  | alu => rw [wbValue_of_alu hl dmem hsrc, fwdM, hsrc, if_neg (by decide)]
  | pc4 => rw [wbValue_of_pc4 hl dmem hsrc, fwdM, hsrc, if_pos rfl]
  | mem =>
    rw [hi] at hsrc hm
    rw [isLoad_of_wbSrc_mem hsrc] at hm
    cases hm

/-! ### The hazard test -/

/-- An entry that will write `r` holds a claim on it (R335, R340). -/
theorem claims_of_dst {n : Entry} {r : Reg} (h : n.dst = some r) : n.claims r = 1 := by
  have hl := live_of_dst h
  rw [Entry.claims, releaseTarget_of_live hl, if_pos]
  simpa [Entry.dst, hl] using h

/-- A counter at 0 says that nothing in flight writes the register. -/
theorem dst_ne_of_count_zero {s : State} (h : s.countersOk = true) {r : Reg} (h0 : s.cnt.count r = 0#2) :
    s.e.dst ≠ some r ∧ s.m.dst ≠ some r ∧ s.w.dst ≠ some r := by
  have hcount := (countersOk_iff s).1 h r
  rw [h0] at hcount
  simp only [BitVec.toNat_ofNat, Nat.zero_mod] at hcount
  refine ⟨fun hd => ?_, fun hd => ?_, fun hd => ?_⟩ <;>
    (have := claims_of_dst hd
     omega)

section
variable {s : State} {r : Reg} {v : Word}

/-- The test grants a value in four ways: x0, the register file under a counter at 0, M's forwarded value, W's. -/
theorem canRead_eq_some (h : s.canRead r = some v) :
    (r = 0#5 ∧ v = 0#32) ∨ (s.cnt.count r = 0#2 ∧ v = s.x r)
      ∨ (s.bypass.pendD ≠ some r ∧ s.bypass.bypE = some r ∧ s.m.c.mem.isLoad = false ∧ v = fwdM s.m)
      ∨ (s.bypass.pendD ≠ some r ∧ s.bypass.bypE ≠ some r ∧ s.bypass.bypM = some r ∧ v = wbValue s.w) := by
  unfold State.canRead at h
  split_ifs at h with h0 hcnt hD hE hload hM
  · exact .inl ⟨h0, (Option.some.inj h).symm⟩
  · exact .inr (.inl ⟨hcnt, (Option.some.inj h).symm⟩)
  · exact .inr (.inr (.inl ⟨hD, hE, by simpa using hload, (Option.some.inj h).symm⟩))
  · exact .inr (.inr (.inr ⟨hD, hE, hM, (Option.some.inj h).symm⟩))

theorem regsAfterM_of_dst_m (hd : s.m.dst = some r) :
    s.regsAfterM.read r = wbValue (memoryStage s.dmem s.m) :=
  read_writeBackRegs_of_dst ((dst_memoryStage _ _).trans hd)

theorem regsAfterM_of_dst_w (hm : s.m.dst ≠ some r) (hd : s.w.dst = some r) : s.regsAfterM.read r = wbValue s.w :=
  (read_writeBackRegs_of_ne (by rwa [dst_memoryStage])).trans (read_writeBackRegs_of_dst hd)

theorem regsAfterM_of_not_dst (hm : s.m.dst ≠ some r) (hw : s.w.dst ≠ some r) : s.regsAfterM.read r = s.x r :=
  (read_writeBackRegs_of_ne (by rwa [dst_memoryStage])).trans (read_writeBackRegs_of_ne hw)

theorem Coherent.canRead (h : Coherent s) (hr : s.canRead r = some v) :
    v = s.regsAfterM.read r ∧ s.e.dst ≠ some r := by
  have hbyp := h.bypass
  rw [State.bypassOk, decide_eq_true_eq] at hbyp
  have hcases := canRead_eq_some hr
  simp only [hbyp] at hcases
  obtain ⟨rfl, rfl⟩ | ⟨h0, rfl⟩ | ⟨he, hm, hload, rfl⟩ | ⟨he, hm, hw, rfl⟩ := hcases
  · exact ⟨rfl, dst_ne_zero _⟩
  · obtain ⟨he, hm, hw⟩ := dst_ne_of_count_zero h.counters h0
    exact ⟨(regsAfterM_of_not_dst hm hw).symm, he⟩
  · refine ⟨?_, he⟩
    rw [regsAfterM_of_dst_m hm, wbValue_memoryStage_of_not_load (live_of_dst hm) h.bundleM hload]
  · exact ⟨(regsAfterM_of_dst_w hm hw).symm, he⟩

end

/-- Settles O45: of the four ways to be granted a value, each names what W and M leave in the register. -/
theorem hazardTestReadsTheYoungestWrite : Obligations.HazardTestReadsTheYoungestWrite :=
  fun _ _ _ hcoh hr => (coherent_iff.1 hcoh).canRead hr

end Sys2Proof.Machine
end

section
/-! What Decode makes of D and where Fetch fetches (47_pipeline.md R392–R399), and what the invariant says of both. -/

namespace Sys2Proof.Machine

/-! ### What Decode makes of D (R396–R399) -/

section
variable {s : State}

theorem decodeStage_eq_idle (h : decodeStage s = .idle) : s.f.halted = true ∨ s.d.valid = false := by
  unfold decodeStage at h
  split_ifs at h with hidle
  · simpa [or_comm] using hidle
  · split at h
    · cases h
    · unfold State.tryIssue at h
      split at h <;> cases h

/-- Decode acts on a valid D while Fetch is not halted. -/
theorem decoding_of_ne_idle (h : decodeStage s ≠ .idle) : s.d.valid = true ∧ s.f.halted = false := by
  unfold decodeStage at h
  split_ifs at h with hidle
  · exact absurd rfl h
  all_goals simpa using hidle

theorem decodeStage_of_halted (h : s.f.halted = true) : decodeStage s = .idle := by
  simp [decodeStage, h]

/-- What an issue takes from D, and where its operands come from (R398, R399). -/
structure IssuedFromD (s : State) (e : ExecuteReg) : Prop where
  pc : e.pc = s.d.pc
  word : e.word = s.d.word
  poison : s.d.poison = false
  live : e.live = true
  bundle : decodeBundle e.word = some e.c
  source1 : s.source e.c.rs1Valid e.c.rs1 = some e.v1
  source2 : s.source e.c.rs2Valid e.c.rs2 = some e.v2

theorem issuedFromD {e : ExecuteReg} (h : decodeStage s = .issue e) : IssuedFromD s e := by
  obtain ⟨-, hlive, hbundle⟩ := decodeStage_eq_issue h
  unfold decodeStage at h
  split_ifs at h with hidle hpoison
  split at h
  · cases h
  unfold State.tryIssue at h
  split at h
  next v1 v2 h1 h2 =>
    cases h
    exact ⟨rfl, rfl, by simpa using hpoison, hlive, hbundle, h1, h2⟩
  · cases h

/-- A marker of Decode is a poisoned fetch or a word that matches nothing (R397, R460). -/
theorem decodeStage_marker_cases {e : ExecuteReg} (h : decodeStage s = .marker e) :
    (s.d.poison = true ∧ e = markerEntry s.d .fetchFault)
      ∨ (s.d.poison = false ∧ decodeBundle s.d.word = none ∧ e = markerEntry s.d .decodeFault) := by
  unfold decodeStage at h
  split_ifs at h with hidle hpoison
  · cases h; exact .inl ⟨hpoison, rfl⟩
  · split at h
    next hnone => cases h; exact .inr ⟨by simpa using hpoison, hnone, rfl⟩
    · unfold State.tryIssue at h
      split at h <;> cases h

end

/-! ### Fetch (R392, R393) -/

section
variable {s : State}

theorem fetched_fromMemory (s : State) : s.fetched.fromMemory s.cfg s.imem := by
  unfold State.fetched fetchEntry
  split_ifs with hf hr
  · intro hv; cases hv
  · intro _; exact ⟨nofun, fun _ => ⟨hr, rfl⟩⟩
  · intro _; exact ⟨fun _ => ⟨by simpa using hr, rfl⟩, nofun⟩

/-- Unless halted with no redirect pending, Fetch fetches, and D's address is its own. -/
theorem fetched_of_fetching (h : (fetchAddress s.f).2 = true) :
    s.fetched.valid = true ∧ s.fetched.pc = (fetchAddress s.f).1 := by
  unfold State.fetched fetchEntry
  split_ifs with hf hr
  · simp [h] at hf
  · exact ⟨rfl, rfl⟩
  · exact ⟨rfl, rfl⟩

theorem fetchAddress_of_redirect (h : s.f.redirValid = true) : fetchAddress s.f = (s.f.redirTarget, true) :=
  if_pos h

end

/-! ### The shape of coherent states -/

section
variable {s : State} (h : Coherent s)
include h

namespace Coherent

/-- The halt ends the run but redirects and faults nothing, so an entry that squashes ends none by itself. -/
theorem not_terminal_of_squash (hx : (executeStage s.cfg s.e).squash = true) : s.e.terminal = false := by
  have hl := live_of_squash hx
  rw [terminal_of_live hl]
  by_contra hhalt
  have hc := bundleHalt_of_decodeBundle ((bundleOk_iff.1 h.bundleE).1 (holdsClaim_of_live hl)) (by simpa using hhalt)
  have hnone : (executeStage s.cfg s.e).squash = false := by
    rw [squash_eq_false, flush_of_live hl, exfault_of_live hl]
    simp [executeSignals, hc, bundleHalt, Bundle.zero]
  rw [hnone] at hx
  cases hx

/-- What Execute squashes was not halted: nothing in flight ends the run (R418). -/
theorem not_halted_of_squash (hx : (executeStage s.cfg s.e).squash = true) : s.f.halted = false := by
  obtain ⟨hlatch, hm, hw, -⟩ := haltOk_iff.1 h.halt
  have hv := valid_of_live (live_of_squash hx)
  rw [hv] at hm hw
  have hmt : s.m.terminal = false := by simpa using mt hm
  have hwt : s.w.terminal = false := by simpa using mt hw
  rw [hlatch, h.not_terminal_of_squash hx, hmt, hwt]
  rfl

/-- While Fetch is not halted D is empty exactly while a redirect is pending, and is steered to its address. -/
theorem not_redirect_of_valid_d (hf : s.f.halted = false) (hd : s.d.valid = true) : s.f.redirValid = false := by
  obtain ⟨-, hagree, -⟩ := fetchOk_iff.1 h.fetch
  obtain ⟨hvalid, -⟩ := hagree hf
  simpa [hd] using hvalid

theorem steered_of_valid_d (hf : s.f.halted = false) (hd : s.d.valid = true) : s.steered = s.d.pc :=
  if_neg (by simp [h.not_redirect_of_valid_d hf hd])

/-- Behind a valid D, Fetch takes the address after D's, whether or not Decode stalled before (R394, R415). -/
theorem fetchAddress_of_valid_d (hf : s.f.halted = false) (hd : s.d.valid = true) :
    fetchAddress s.f = (nextPc s.d.pc, true) := by
  obtain ⟨-, hagree, -⟩ := fetchOk_iff.1 h.fetch
  have hpc := (hagree hf).2 hd
  cases hst : s.f.stall <;> simp [fetchAddress, h.not_redirect_of_valid_d hf hd, hf, hst, hpc]

/-- With D empty a redirect is pending, and Fetch takes its target. -/
theorem fetchAddress_of_empty_d (hf : s.f.halted = false) (hd : s.d.valid = false) :
    fetchAddress s.f = (s.steered, true) := by
  obtain ⟨-, hagree, -⟩ := fetchOk_iff.1 h.fetch
  obtain ⟨hvalid, -⟩ := hagree hf
  have hr : s.f.redirValid = true := by simpa [hd] using hvalid
  rw [fetchAddress_of_redirect hr, State.steered, if_pos hr]

/-- While Fetch is not halted, a valid entry in E is live and no halt. -/
theorem live_e (hf : s.f.halted = false) (hv : s.e.valid = true) : s.e.live = true ∧ s.e.c.halt = false := by
  obtain ⟨ht, -, -⟩ := not_terminal_of_coherent (coherent_iff.2 h) hf
  have hl := live_of_not_terminal hv ht
  exact ⟨hl, (terminal_of_live hl).symm.trans ht⟩

/-! ### W's entry is what its row made of the architectural state -/

/-- A live entry in W is the executed form of a live entry at the pc that raised no fault. -/
theorem executed_w (hl : s.w.live = true) : ∃ e : ExecuteReg, e.live = true ∧ (executeStage s.cfg e).exfault = none
    ∧ s.w.toMemoryReg = executedEntry e ∧ s.w = memoryStage s.dmem (executeStage s.cfg e).next
    ∧ e.pc = s.pc ∧ decodeBundle e.word = some e.c := by
  have hv := valid_of_live hl
  obtain ⟨hpc, hw, -⟩ := wOnPath_iff.1 h.pathW hv
  have hm : s.w.toMemoryReg = (executeStage s.cfg (s.w.toEntry.issuedFrom s.regs)).next := by
    have hvm : (executeStage s.cfg (s.w.toEntry.issuedFrom s.regs)).next.valid = true := by
      rw [hw, valid_memoryStage] at hv
      exact hv
    exact (congrArg WriteBackReg.toMemoryReg hw).trans (toMemoryReg_memoryStage_of_valid hvm)
  have hlm : (executeStage s.cfg (s.w.toEntry.issuedFrom s.regs)).next.live = true := hm ▸ hl
  obtain ⟨hle, hx, hnext⟩ := executed_of_live_next hlm
  exact ⟨_, hle, hx, hm.trans hnext, hw, hpc, (bundleOk_iff.1 h.bundleW).1 (holdsClaim_of_live hl)⟩

theorem executed_m (hl : s.m.live = true) : ∃ e : ExecuteReg, e.live = true ∧ (executeStage s.cfg e).exfault = none
    ∧ s.m = executedEntry e ∧ decodeBundle e.word = some e.c := by
  obtain ⟨-, hm⟩ := mOnPath_iff.1 h.pathM (valid_of_live hl)
  have hlm : (executeStage s.cfg (s.m.toEntry.issuedFrom s.regsAfterW)).next.live = true := hm ▸ hl
  obtain ⟨hle, hx, hnext⟩ := executed_of_live_next hlm
  exact ⟨_, hle, hx, hm.trans hnext, (bundleOk_iff.1 h.bundleM).1 (holdsClaim_of_live hl)⟩

end Coherent
end

end Sys2Proof.Machine
end

section
/-! The entry that takes E in a tick (47_pipeline.md R412, R413), and the memories, the pc and x0 behind a tick. -/

namespace Sys2Proof.Machine

/-! ### The entry that takes E -/

/-- The entry E takes comes from D: nothing, a marker of Decode, or an issue. -/
theorem selection_e_cases (s : State) : s.selection.e = .bubble
    ∨ (s.d.valid = true ∧ s.f.halted = false ∧ (executeStage s.cfg s.e).squash = false
        ∧ (decodeStage s = .marker s.selection.e ∨ decodeStage s = .issue s.selection.e)) := by
  cases hx : (executeStage s.cfg s.e).squash with
  | true => exact .inl (by rw [selection_of_squash hx])
  | false =>
    cases ho : decodeStage s with
    | idle => exact .inl (by rw [selection_of_idle hx ho])
    | stall => exact .inl (by rw [selection_of_stall hx ho])
    | marker e =>
      obtain ⟨hd, hf⟩ := decoding_of_ne_idle (s := s) (by simp [ho])
      exact .inr ⟨hd, hf, rfl, .inl (by rw [selection_of_marker hx ho])⟩
    | issue e =>
      obtain ⟨hd, hf⟩ := decoding_of_ne_idle (s := s) (by simp [ho])
      have he : s.selection.e = e := by
        rw [State.selection, ho]
        exact selectNext_e_of_issue hx
      exact .inr ⟨hd, hf, rfl, .inr (by rw [he])⟩

/-! ### Memories, pc and x0 -/

/-- A row that accesses memory is no branch and no jump (R165). -/
theorem sequential_of_mem {i : Instr} (h : (Instr.bundle i).mem ≠ .none) :
    (Instr.bundle i).isBranch = false ∧ (Instr.bundle i).uncond = false := by
  cases i with
  | lb | lh | lw | lbu | lhu | sb | sh | sw => exact ⟨rfl, rfl⟩
  | _ => exact absurd rfl h

section
variable {cfg : Config} {e : ExecuteReg} (hl : e.live = true) (hx : (executeStage cfg e).exfault = none)
include hl hx

/-- A store that raised no fault writes in range (R251, R406). -/
theorem inRange_of_executed_store (hb : decodeBundle e.word = some e.c) (hst : e.c.mem.isStore = true) :
    inRange cfg (aluResult e) = true := by
  obtain ⟨i, hi⟩ := exists_bundle_of_decodeBundle hb
  have hne : e.c.mem ≠ .none := fun hn => by rw [hn] at hst; cases hst
  obtain ⟨hbr, hu⟩ := sequential_of_mem (i := i) (by rwa [← hi])
  rw [← hi] at hbr hu
  rw [exfault_of_live hl, signalled_access hbr hu hne, Option.map_eq_none_iff] at hx
  exact (inRange_iff _ _).2 (accessCheck_eq_none.1 hx).2

/-- The address an entry that raised no fault is followed by is aligned if its own is (R284). -/
theorem aligned_of_executed (hpc : e.pc.toNat % 4 = 0) (a : Word) (ha : a.toNat % 4 = 0) (dmem : Memory) :
    (writeBackPc a (memoryStage dmem (executeStage cfg e).next)).toNat % 4 = 0 := by
  rw [exfault_of_live hl] at hx
  have hm := live_executedEntry hl
  rw [next_of_noFault hl hx]
  cases hh : e.c.halt with
  | true => rwa [writeBackPc_of_halt hm hh]
  | false =>
    rw [writeBackPc_of_live hm hh]
    cases hbr : e.c.isBranch with
    | true =>
      rw [signalled_branch hbr] at hx
      split_ifs at hx with hmis
      cases ht : branchTaken (aluResult e) e.c.flip with
      | false => simpa [executedEntry, hbr, ht] using nextPc_aligned hpc
      | true =>
        have : targetMisaligned (e.pc + e.c.imm) = false := by simpa [ht] using hmis
        simpa [executedEntry, hbr, ht] using aligned_of_not_targetMisaligned this
    | false =>
      cases hu : e.c.uncond with
      | true =>
        rw [signalled_jump hbr hu] at hx
        split_ifs at hx with hmis
        simpa [executedEntry, hbr, hu] using aligned_of_not_targetMisaligned (by simpa using hmis)
      | false => simpa [executedEntry, hbr, hu] using nextPc_aligned hpc

end

section
variable {s : State} (h : Coherent s)
include h

namespace Coherent

theorem inRange_store_m (hl : s.m.live = true) (hst : s.m.c.mem.isStore = true) : inRange s.cfg s.m.res = true := by
  obtain ⟨e, hle, hx, hm, hb⟩ := h.executed_m hl
  rw [hm] at hst ⊢
  exact inRange_of_executed_store hle hx hb hst

theorem inRange_store_w (hl : s.w.live = true) (hst : s.w.c.mem.isStore = true) : inRange s.cfg s.w.res = true := by
  obtain ⟨e, hle, hx, hw, -, -, hb⟩ := h.executed_w hl
  rw [hw] at hst ⊢
  exact inRange_of_executed_store hle hx hb hst

variable (hrun : s.status = .running)
include hrun

theorem memoriesOk_nextTick : s.nextTick.memoriesOk = true := by
  obtain ⟨hcfg, himem, ⟨hdwf, hdbelow⟩, ⟨hpwf, hpbelow⟩, hstored⟩ := (State.memoriesOk_iff s).1 h.memories
  rw [State.memoriesOk_iff, nextTick_cfg hrun, nextTick_imem hrun, nextTick_dmem hrun, nextTick_ptab hrun,
    nextTick_stored hrun]
  refine ⟨hcfg, himem, ?_, ?_, ?_⟩
  · unfold memoryCommit
    split_ifs with hst
    · rw [Bool.and_eq_true] at hst
      exact ⟨Memory.store_wf hdwf _ _ _, Memory.store_below hdbelow (h.inRange_store_m hst.1 hst.2) _ _⟩
    · exact ⟨hdwf, hdbelow⟩
  · unfold writeBackPredictor
    split_ifs
    · exact ⟨updatePredictor_wf hpwf _ _ _, updatePredictor_below hpbelow _ _ _⟩
    · exact ⟨hpwf, hpbelow⟩
  · unfold writeBackStored
    split_ifs with hst
    · rw [Bool.and_eq_true] at hst
      exact insertIndex_risingBelow hstored (of_decide_eq_true (h.inRange_store_w hst.1 hst.2))
    · exact hstored

theorem pcAligned_nextTick : s.nextTick.pcAligned = true := by
  have hpc := h.aligned
  simp only [State.pcAligned, decide_eq_true_eq, nextTick_pc hrun] at hpc ⊢
  cases hl : s.w.live with
  | false => simpa [writeBackPc, hl] using hpc
  | true =>
    obtain ⟨e, hle, hx, -, hw, hepc, -⟩ := h.executed_w hl
    rw [hw]
    exact aligned_of_executed hle hx (hepc ▸ hpc) _ hpc _

theorem zeroPinned_nextTick : s.nextTick.zeroPinned = true := by
  have hz := h.zero
  simp only [State.zeroPinned, Bool.and_eq_true, decide_eq_true_eq] at hz ⊢
  obtain ⟨hregs, hcnt⟩ := hz
  constructor
  · rw [nextTick_regs hrun, ← hregs]
    unfold writeBackRegs
    split
    · exact RegFile.write_slot_zero _ _ _
    · rfl
  · obtain ⟨cnt', hok, -⟩ := occupancyCommit_of_countersOk h.counters
    have hnext : s.nextTick.cnt = cnt' := by simp [State.nextTick, hrun, hok]
    rw [hnext, occupancyCommit_slot_zero hok, hcnt]

end Coherent
end

end Sys2Proof.Machine
end

section
/-! A tick keeps the cycle machine's invariant (47_pipeline.md R340, R415–R418, R440, R441): each clause of `Coherent`
in the next state follows from the same clauses one stage earlier. -/

namespace Sys2Proof.Machine

/-! ### What Decode's markers and issues are -/

section
variable {s : State}

theorem bundleOk_of_marker {e : ExecuteReg} (ho : decodeStage s = .marker e) : e.bundleOk = true := by
  obtain ⟨-, rfl⟩ | ⟨-, -, rfl⟩ := decodeStage_marker_cases ho <;> rfl

theorem bundleOk_of_issue {e : ExecuteReg} (ho : decodeStage s = .issue e) : e.bundleOk = true := by
  have hi := issuedFromD ho
  exact bundleOk_iff.2 ⟨fun _ => hi.bundle, fun _ hc => by rw [holdsClaim_of_live hi.live] at hc; cases hc⟩

theorem wordOk_of_marker {e : ExecuteReg} (hd : s.d.valid = true) (hmem : s.d.fromMemory s.cfg s.imem)
    (ho : decodeStage s = .marker e) : e.wordOk s.cfg s.imem = true := by
  obtain ⟨hpoison, hclean⟩ := hmem hd
  obtain ⟨hp, rfl⟩ | ⟨hp, hnone, rfl⟩ := decodeStage_marker_cases ho
  · obtain ⟨hrange, hword⟩ := hpoison hp
    exact wordOk_iff.2 fun _ => ⟨fun _ => ⟨hword, hrange, rfl⟩, fun hne => absurd rfl hne⟩
  · obtain ⟨hrange, hword⟩ := hclean hp
    exact wordOk_iff.2 fun _ => ⟨nofun, fun _ => ⟨hrange, hword, fun _ => ⟨hnone, rfl⟩⟩⟩

theorem wordOk_of_issue {e : ExecuteReg} (hd : s.d.valid = true) (hmem : s.d.fromMemory s.cfg s.imem)
    (ho : decodeStage s = .issue e) : e.wordOk s.cfg s.imem = true := by
  have hi := issuedFromD ho
  obtain ⟨hrange, hword⟩ := (hmem hd).2 hi.poison
  have hf := fault_of_live hi.live
  refine wordOk_iff.2 fun _ => ⟨fun hc => ?_, fun _ => ⟨?_, ?_, fun hc => ?_⟩⟩
  · rw [hf] at hc; cases hc
  · rwa [hi.pc]
  · rw [hi.word, hi.pc, hword]
  · rw [hf] at hc; cases hc

theorem terminal_of_marker {e : ExecuteReg} (ho : decodeStage s = .marker e) : e.terminal = true := by
  obtain ⟨-, rfl⟩ | ⟨-, -, rfl⟩ := decodeStage_marker_cases ho <;> rfl

/-- A branch is no halt. -/
theorem not_halt_of_branch {i : Instr} (h : (Instr.bundle i).isBranch = true) : (Instr.bundle i).halt = false := by
  cases i with
  | beq | bne | blt | bge | bltu | bgeu => rfl
  | _ => cases h

/-- A redirect from Decode is a branch's, predicted taken, to its predicted successor (R399). -/
theorem predictedRedirect_eq_some {e : ExecuteReg} {t : Word} (h : predictedRedirect e = some t) :
    e.c.isBranch = true ∧ e.predictedNext = t := by
  unfold predictedRedirect at h
  split_ifs at h with hb
  cases h
  rw [Bool.and_eq_true] at hb
  exact ⟨hb.1, by simp [ExecuteReg.predictedNext, hb]⟩

theorem predictedRedirect_eq_none {e : ExecuteReg} (h : predictedRedirect e = none) :
    e.predictedNext = nextPc e.pc := by
  unfold predictedRedirect at h
  split_ifs at h with hb
  exact if_neg hb

end

/-! ### The entry that takes E, and the halt latch -/

theorem bundleOk_selection (s : State) : s.selection.e.bundleOk = true := by
  obtain he | ⟨-, -, -, ho | ho⟩ := selection_e_cases s
  · rw [he]; rfl
  · exact bundleOk_of_marker ho
  · exact bundleOk_of_issue ho

theorem fault_selection (s : State) : ∀ k, s.selection.e.fault = some k → k.fromExecute = false := by
  intro k hk
  obtain he | ⟨-, -, -, ho | ho⟩ := selection_e_cases s
  · rw [he] at hk; cases hk
  · obtain ⟨-, he⟩ | ⟨-, -, he⟩ := decodeStage_marker_cases ho <;> rw [he] at hk <;> cases hk <;> rfl
  · rw [fault_of_live (issuedFromD ho).live] at hk; cases hk

/-- A squash that does not halt Fetch is a redirect without a fault (R412). -/
theorem flush_of_squash {s : State} (hx : (executeStage s.cfg s.e).squash = true)
    (hh : s.selection.f.halted = false) :
    (executeStage s.cfg s.e).exfault = none ∧ ∃ a, (executeStage s.cfg s.e).flush = some a := by
  have hexf : (executeStage s.cfg s.e).exfault = none := by
    simpa [selection_of_squash hx, not_halted_of_selection hh] using hh
  exact ⟨hexf, Option.isSome_iff_exists.1 (by simpa [ExecuteOut.squash, hexf] using hx)⟩

/-- The halt latch after the tick of a state that is not halted: set by a fault in Execute, or by a marker or a halt
that takes E; and then no redirect is pending. -/
theorem halted_selection {s : State} (hf : s.f.halted = false) :
    s.selection.f.halted = (s.selection.e.terminal || (executeStage s.cfg s.e).exfault.isSome)
      ∧ ((executeStage s.cfg s.e).exfault.isSome = true → s.selection.e.valid = false)
      ∧ (s.selection.f.halted = true → s.selection.f.redirValid = false) := by
  cases hx : (executeStage s.cfg s.e).squash with
  | true =>
    rw [selection_of_squash hx]
    refine ⟨by simp [hf], fun _ => rfl, fun hh => ?_⟩
    obtain hflush | hexf := flush_or_exfault_eq_none s.cfg s.e
    · simp [hflush]
    · simp [hf, hexf] at hh
  | false =>
    obtain ⟨-, hexf⟩ := squash_eq_false.1 hx
    cases ho : decodeStage s with
    | idle => rw [selection_of_idle hx ho]; simp [hf, hexf]
    | stall => rw [selection_of_stall hx ho]; simp [hf, hexf]
    | marker e => rw [selection_of_marker hx ho]; simp [terminal_of_marker ho, hexf]
    | issue e =>
      have hi := issuedFromD ho
      cases hp : predictedRedirect e with
      | none => rw [selection_of_issue hx ho hp]; simp [hf, hexf, terminal_of_live hi.live]
      | some t =>
        obtain ⟨i, hrow⟩ := exists_bundle_of_decodeBundle hi.bundle
        have hhalt : e.c.halt = false := hrow ▸ not_halt_of_branch (hrow ▸ (predictedRedirect_eq_some hp).1)
        rw [selection_of_predicted hx ho hp]
        simp [hf, hexf, terminal_of_live hi.live, hhalt]

namespace Coherent

section
variable {s : State} (h : Coherent s)
include h

theorem d_fromMemory : s.d.fromMemory s.cfg s.imem := (fetchOk_iff.1 h.fetch).2.2

/-! ### The registers -/

theorem wordOk_selection : s.selection.e.wordOk s.cfg s.imem = true := by
  obtain he | ⟨hd, -, -, ho | ho⟩ := selection_e_cases s
  · rw [he]; rfl
  · exact wordOk_of_marker hd h.d_fromMemory ho
  · exact wordOk_of_issue hd h.d_fromMemory ho

section
variable (hrun : s.status = .running)
include hrun

/-- The latch and what it says of the entries in flight (R418), where the tick does not end the run. -/
theorem haltOk_nextTick (hw : s.w.terminal = false) : s.nextTick.haltOk = true := by
  obtain ⟨hlatch, hm, -, -⟩ := haltOk_iff.1 h.halt
  simp only [hw, Bool.or_false] at hlatch
  rw [haltOk_iff, nextTick_f hrun, nextTick_e hrun, nextTick_m hrun, nextTick_w hrun, terminal_next,
    terminal_memoryStage_eq, valid_next]
  cases hf : s.f.halted with
  | true =>
    have hx : (executeStage s.cfg s.e).squash = false := by
      by_contra hx
      rw [h.not_halted_of_squash (by simpa using hx)] at hf
      cases hf
    rw [selection_of_idle hx (decodeStage_of_halted hf)]
    refine ⟨?_, fun _ => rfl, fun hmt => ⟨rfl, hm hmt⟩, fun _ => rfl⟩
    simpa [(squash_eq_false.1 hx).2, hf] using hlatch
  | false =>
    rw [hf, eq_comm, Bool.or_eq_false_iff] at hlatch
    obtain ⟨het, hmt⟩ := hlatch
    obtain ⟨hhalted, hvalid, hredir⟩ := halted_selection hf
    simp only [het, hmt, Bool.false_or, Bool.or_false]
    exact ⟨hhalted, hvalid, nofun, hredir⟩

end

/-! ### Fetch and D -/

/-- D takes what Fetch fetched, keeps what it held, or is emptied. -/
theorem d_selection_fromMemory : s.selection.d.fromMemory s.cfg s.imem := by
  have hbubble : DecodeReg.bubble.fromMemory s.cfg s.imem := nofun
  cases hx : (executeStage s.cfg s.e).squash with
  | true => rwa [selection_of_squash hx]
  | false =>
    cases ho : decodeStage s with
    | idle => rw [selection_of_idle hx ho]; exact fetched_fromMemory s
    | stall => rw [selection_of_stall hx ho]; exact h.d_fromMemory
    | marker e => rw [selection_of_marker hx ho]; exact fetched_fromMemory s
    | issue e =>
      cases hp : predictedRedirect e with
      | none => rw [selection_of_issue hx ho hp]; exact fetched_fromMemory s
      | some t => rwa [selection_of_predicted hx ho hp]

/-- Unless the tick halts Fetch, D is empty exactly while a redirect is pending, and F.pc is D's address or, behind a
stall, the one after it. -/
theorem agree_selection (hh : s.selection.f.halted = false) :
    s.selection.d.valid = !s.selection.f.redirValid
      ∧ (s.selection.d.valid = true →
          s.selection.f.pc = if s.selection.f.stall then nextPc s.selection.d.pc else s.selection.d.pc) := by
  have hf := not_halted_of_selection hh
  cases hx : (executeStage s.cfg s.e).squash with
  | true =>
    obtain ⟨-, a, ha⟩ := flush_of_squash hx hh
    rw [selection_of_squash hx, ha]
    exact ⟨rfl, nofun⟩
  | false =>
    have hfetch : (fetchAddress s.f).2 = true := by
      cases hd : s.d.valid with
      | true => rw [h.fetchAddress_of_valid_d hf hd]
      | false => rw [h.fetchAddress_of_empty_d hf hd]
    obtain ⟨hvalid, hpc⟩ := fetched_of_fetching hfetch
    cases ho : decodeStage s with
    | idle => rw [selection_of_idle hx ho]; exact ⟨hvalid, fun _ => hpc.symm⟩
    | stall =>
      obtain ⟨hd, -⟩ := decoding_of_ne_idle (s := s) (by simp [ho])
      rw [selection_of_stall hx ho, h.fetchAddress_of_valid_d hf hd]
      exact ⟨hd, fun _ => rfl⟩
    | marker e => rw [selection_of_marker hx ho]; exact ⟨hvalid, fun _ => hpc.symm⟩
    | issue e =>
      cases hp : predictedRedirect e with
      | none => rw [selection_of_issue hx ho hp]; exact ⟨hvalid, fun _ => hpc.symm⟩
      | some t => rw [selection_of_predicted hx ho hp]; exact ⟨rfl, nofun⟩

section
variable (hrun : s.status = .running)
include hrun

theorem fetchOk_nextTick : s.nextTick.fetchOk = true := by
  rw [fetchOk_iff, nextTick_cfg hrun, nextTick_imem hrun, nextTick_d hrun]
  refine ⟨nextTick_redirect_stall hrun, ?_, h.d_selection_fromMemory⟩
  rw [nextTick_f hrun]
  exact h.agree_selection

/-! ### The path -/

omit h in
theorem regsAfterW_nextTick : s.nextTick.regsAfterW = s.regsAfterM := by
  rw [State.regsAfterW, nextTick_regs hrun, nextTick_w hrun]
  rfl

omit h in
theorem pcAfterW_nextTick : s.nextTick.pcAfterW = s.pcAfterM := by
  rw [State.pcAfterW, nextTick_pc hrun, nextTick_w hrun]
  rfl

theorem wOnPath_nextTick : s.nextTick.wOnPath = true := by
  rw [wOnPath_iff, nextTick_w hrun, nextTick_pc hrun, nextTick_cfg hrun, nextTick_dmem hrun, nextTick_regs hrun,
    valid_memoryStage]
  intro hv
  obtain ⟨hpc, hm⟩ := mOnPath_iff.1 h.pathM hv
  obtain ⟨-, -, ⟨hwf, -⟩, -⟩ := (State.memoriesOk_iff s).1 h.memories
  rw [toMemoryReg_memoryStage_of_valid hv]
  refine ⟨hpc, ?_, memoryCommit_memoryCommit hwf _⟩
  change memoryStage s.dmem s.m = memoryStage _ (executeStage s.cfg (s.m.toEntry.issuedFrom s.regsAfterW)).next
  rw [← hm, memoryStage_memoryCommit]

theorem mOnPath_nextTick : s.nextTick.mOnPath = true := by
  rw [mOnPath_iff, nextTick_m hrun, nextTick_cfg hrun, regsAfterW_nextTick hrun, pcAfterW_nextTick hrun, valid_next]
  intro hv
  obtain ⟨hpc, he⟩ := eOnPath_iff.1 h.pathE hv
  exact ⟨(pc_next hv).trans hpc, next_issuedFrom hv he⟩

/-- Behind an entry that goes on, the pc is where it leaves Fetch steered. -/
theorem pcAfterM_nextTick (hf : s.f.halted = false) (hexf : (executeStage s.cfg s.e).exfault = none) :
    s.nextTick.pcAfterM = if s.e.valid then s.e.successor s.cfg else s.pcAfterM := by
  rw [State.pcAfterM, pcAfterW_nextTick hrun, nextTick_m hrun]
  cases hv : s.e.valid with
  | false => rw [executeStage_of_not_valid hv]; rfl
  | true =>
    obtain ⟨hl, hhalt⟩ := h.live_e hf hv
    exact writeBackPc_of_executed hl hexf hhalt _ _

/-- Where Execute does not squash, that is the address Decode was to see. -/
theorem pcAfterM_nextTick_of_not_squash (hf : s.f.halted = false) (hx : (executeStage s.cfg s.e).squash = false) :
    s.nextTick.pcAfterM = s.steered := by
  obtain ⟨hflush, hexf⟩ := squash_eq_false.1 hx
  rw [h.pcAfterM_nextTick hrun hf hexf, dOnPath_iff.1 h.pathD hf, successor_of_noFlush hflush]

theorem dOnPath_nextTick : s.nextTick.dOnPath = true := by
  rw [dOnPath_iff, State.steered, nextTick_f hrun, nextTick_d hrun, nextTick_e hrun]
  intro hh
  have hf := not_halted_of_selection hh
  cases hx : (executeStage s.cfg s.e).squash with
  | true =>
    have hv := valid_of_live (live_of_squash hx)
    obtain ⟨hexf, a, ha⟩ := flush_of_squash hx hh
    rw [selection_of_squash hx]
    simp [h.pcAfterM_nextTick hrun hf hexf, hv, ExecuteReg.successor, ha, ExecuteReg.bubble, Entry.bubble]
  | false =>
    have hpc := h.pcAfterM_nextTick_of_not_squash hrun hf hx
    cases ho : decodeStage s with
    | idle =>
      have hd : s.d.valid = false := by simpa [hf] using decodeStage_eq_idle ho
      have ha := h.fetchAddress_of_empty_d hf hd
      rw [selection_of_idle hx ho, hpc]
      exact (fetched_of_fetching (by rw [ha])).2.trans (congrArg Prod.fst ha)
    | stall =>
      obtain ⟨hd, -⟩ := decoding_of_ne_idle (s := s) (by simp [ho])
      rw [selection_of_stall hx ho, hpc]
      exact (h.steered_of_valid_d hf hd).symm
    | marker e => rw [selection_of_marker hx ho] at hh; cases hh
    | issue e =>
      obtain ⟨hd, -⟩ := decoding_of_ne_idle (s := s) (by simp [ho])
      have hi := issuedFromD ho
      cases hp : predictedRedirect e with
      | none =>
        have ha := h.fetchAddress_of_valid_d hf hd
        rw [selection_of_issue hx ho hp]
        simp only [valid_of_live hi.live, if_true, predictedRedirect_eq_none hp, hi.pc]
        exact (fetched_of_fetching (by rw [ha])).2.trans (congrArg Prod.fst ha)
      | some t =>
        rw [selection_of_predicted hx ho hp]
        simp only [valid_of_live hi.live, if_true, (predictedRedirect_eq_some hp).2]

/-- An operand Decode is granted is the register's value behind everything in flight (R342, R441). -/
theorem source_nextTick (hexf : (executeStage s.cfg s.e).exfault = none) {valid : Bool} {r : Reg} {v : Word}
    (hr : s.source valid r = some v) : v = if valid then s.nextTick.regsAfterM.read r else 0#32 := by
  cases valid with
  | false => exact (Option.some.inj hr).symm
  | true =>
    obtain ⟨hv, hne⟩ := h.canRead (v := v) hr
    rw [if_pos rfl, State.regsAfterM, regsAfterW_nextTick hrun, nextTick_m hrun, hv]
    exact (read_writeBackRegs_of_ne (by rwa [dst_memoryStage, dst_next hexf])).symm

theorem eOnPath_nextTick : s.nextTick.eOnPath = true := by
  rw [eOnPath_iff, nextTick_e hrun]
  intro hv
  obtain he | ⟨hd, hf, hx, ho⟩ := selection_e_cases s
  · rw [he] at hv; cases hv
  · have hpc := (h.pcAfterM_nextTick_of_not_squash hrun hf hx).trans (h.steered_of_valid_d hf hd)
    rw [hpc]
    obtain ho | ho := ho
    · obtain ⟨-, he⟩ | ⟨-, -, he⟩ := decodeStage_marker_cases ho <;> rw [he] <;> exact ⟨rfl, rfl⟩
    · have hi := issuedFromD ho
      have hexf := (squash_eq_false.1 hx).2
      exact ⟨hi.pc, eq_issuedFrom (fault_selection s) (h.source_nextTick hrun hexf hi.source1)
        (h.source_nextTick hrun hexf hi.source2)⟩

/-- The whole invariant, one tick on, where the entry in W does not end the run. -/
theorem nextTick (hw : s.w.terminal = false) : Coherent s.nextTick where
  memories := h.memoriesOk_nextTick hrun
  aligned := h.pcAligned_nextTick hrun
  zero := h.zeroPinned_nextTick hrun
  counters := countersOk_nextTick h.counters hrun
  bypass := bypassOk_nextTick hrun
  bundleE := by rw [nextTick_e hrun]; exact bundleOk_selection s
  bundleM := by rw [nextTick_m hrun]; exact bundleOk_next h.bundleE
  bundleW := by rw [nextTick_w hrun]; exact bundleOk_memoryStage h.bundleM
  wordE := by rw [nextTick_e hrun, nextTick_cfg hrun, nextTick_imem hrun]; exact h.wordOk_selection
  wordM := by rw [nextTick_m hrun, nextTick_cfg hrun, nextTick_imem hrun]; exact wordOk_next h.wordE
  wordW := by rw [nextTick_w hrun, nextTick_cfg hrun, nextTick_imem hrun]; exact wordOk_memoryStage h.wordM
  faultE := by rw [nextTick_e hrun]; exact fault_selection s
  halt := h.haltOk_nextTick hrun hw
  fetch := h.fetchOk_nextTick hrun
  pathW := h.wOnPath_nextTick hrun
  pathM := h.mOnPath_nextTick hrun
  pathE := h.eOnPath_nextTick hrun
  pathD := h.dOnPath_nextTick hrun

end

end

end Coherent

/-! ### The statements -/

/-- The entry in W ends the run exactly when it is a marker or a halt (R410, R411). -/
theorem writeBackStatus_eq_running_iff {w : WriteBackReg} : writeBackStatus w = .running ↔ w.terminal = false := by
  refine ⟨fun h => ?_, writeBackStatus_of_not_terminal⟩
  obtain hv | ⟨hv, k, hf⟩ | hl := entry_cases w.toEntry
  · exact terminal_of_not_valid hv
  · simp [writeBackStatus, hv, hf] at h
  · rw [terminal_of_live hl]
    simpa [writeBackStatus, valid_of_live hl, fault_of_live hl] using h

theorem status_nextTick_iff {s : State} (hcoh : s.coherent = true) (hrun : s.status = .running) :
    s.nextTick.status = .running ↔ s.w.terminal = false := by
  rw [nextTick_status hrun, (unbroken_of_coherent hcoh hrun).tickStatus, writeBackStatus_eq_running_iff]

/-- Settles O42: the run goes on, so the entry in W ends no run, and every clause is kept. -/
theorem tickKeepsCoherence : Obligations.TickKeepsCoherence := by
  intro s t hcoh hrun htick ht
  rw [eq_nextTick_of_tick hrun htick] at ht ⊢
  exact coherent_iff.2 ((coherent_iff.1 hcoh).nextTick hrun ((status_nextTick_iff hcoh hrun).1 ht))

/-- Settles O52: behind the entry that ends the run E and M are empty and Fetch is halted, so nothing takes a claim
into the next state. -/
theorem countersAreZeroAtTermination : Obligations.CountersAreZeroAtTermination := by
  intro s hcoh hrun hend r
  have hw : s.w.terminal = true := by simpa using mt (status_nextTick_iff hcoh hrun).2 hend
  have h := coherent_iff.1 hcoh
  obtain ⟨hlatch, -, hempty, -⟩ := haltOk_iff.1 h.halt
  obtain ⟨he, hm⟩ := hempty hw
  have hsel : s.selection.e = .bubble := by
    obtain hsel | ⟨-, hf, -⟩ := selection_e_cases s
    · exact hsel
    · simp [hf, hw] at hlatch
  have hcount := (countersOk_iff _).1 (countersOk_nextTick h.counters hrun) r
  rw [nextTick_e hrun, nextTick_m hrun, nextTick_w hrun, hsel, executeStage_of_not_valid he,
    memoryStage_of_not_valid hm] at hcount
  exact BitVec.eq_of_toNat_eq hcount

end Sys2Proof.Machine
end

section
/-! Reset and every drained state meet the cycle machine's invariant (R490, R491): with nothing in flight each clause
speaks of bubbles, and Fetch is steered to the pc. -/

namespace Sys2Proof.Machine

@[simp] theorem count_replicate_zero (r : Reg) : Counters.count (Vector.replicate 32 0#2) r = 0#2 := by
  simp [Counters.count]

/-- The pipeline emptied and steered to the pc is coherent. -/
theorem coherent_restart {s : State} (hinv : s.inv = true) (hrun : s.status = .running) : Coherent s.restart := by
  obtain ⟨hmem, hpc, hzero⟩ := (inv_iff s).1 hinv
  simp only [State.zeroPinned, Bool.and_eq_true, decide_eq_true_eq] at hzero
  exact
    { memories := by rwa [State.memoriesOk_restart]
      aligned := by rwa [State.pcAligned_restart]
      zero := by simp [State.zeroPinned, hzero.1]
      counters := (countersOk_iff _).2 fun r => congrArg BitVec.toNat (count_replicate_zero r)
      bypass := rfl
      bundleE := rfl
      bundleM := rfl
      bundleW := rfl
      wordE := rfl
      wordM := rfl
      wordW := rfl
      faultE := nofun
      halt := haltOk_iff.2 ⟨show (!decide (s.status = .running)) = false by simp [hrun], nofun, nofun, by simp [hrun]⟩
      fetch := fetchOk_iff.2 ⟨Bool.and_false _, fun _ => ⟨by simp [hrun]; rfl, nofun⟩, nofun⟩
      pathW := rfl
      pathM := rfl
      pathE := rfl
      pathD := dOnPath_iff.2 fun _ => by simp [State.steered, hrun]; rfl }

theorem coherent_of_drained {s : State} (hinv : s.inv = true) (hdrained : s.drained = true)
    (hrun : s.status = .running) : s.coherent = true := by
  rw [of_decide_eq_true hdrained, coherent_iff]
  exact coherent_restart hinv hrun

/-- Settles O41: reset is itself a drained running state that meets the invariant. -/
theorem drainedStatesAreCoherent : Obligations.DrainedStatesAreCoherent :=
  ⟨coherent_of_drained (by decide) (by decide) rfl, fun _ => coherent_of_drained⟩

end Sys2Proof.Machine
end

section
/-! The branch predictor (46_branch_predictor.md): what each policy answers and keeps, and where repeated updates from
one address take an adaptive entry. -/

namespace Sys2Proof.Machine

variable {cfg : Config} {t : PredTable}

/-! ### One prediction and one update by policy (R375, R377) -/

theorem predict_of_alwaysTaken (h : cfg.predictor = .alwaysTaken) (a : Word) : predict cfg t a = true := by
  simp [predict, h]

theorem predict_of_neverTaken (h : cfg.predictor = .neverTaken) (a : Word) : predict cfg t a = false := by
  simp [predict, h]

theorem predict_iff_of_adaptive (h : cfg.predictor = .adaptive) (a : Word) :
    predict cfg t a = true ↔ 2 ≤ (t.level (predIndex cfg a)).toNat := by
  simp [predict, h]

theorem updatePredictor_of_not_adaptive (h : cfg.predictor ≠ .adaptive) (a : Word) (p b : Bool) :
    updatePredictor cfg t a p b = t := by
  unfold updatePredictor
  cases hp : cfg.predictor with
  | alwaysTaken | neverTaken => rfl
  | adaptive => exact absurd hp h

/-- Settles O32: each static policy answers a constant, and only the adaptive one writes the table. -/
theorem staticPoliciesAreFixed : Obligations.StaticPoliciesAreFixed := fun _ _ a b p q =>
  ⟨fun h => ⟨predict_of_alwaysTaken h a, updatePredictor_of_not_adaptive (by simp [h]) b p q⟩,
    fun h => ⟨predict_of_neverTaken h a, updatePredictor_of_not_adaptive (by simp [h]) b p q⟩⟩

/-! ### The same update `k` times (R376, R379) -/

/-- The table after `k` updates from address `a` with outcome `b`. -/
def updateTimes (cfg : Config) (t : PredTable) (a : Word) (p b : Bool) (k : Nat) : PredTable :=
  (List.range k).foldl (fun u _ => updatePredictor cfg u a p b) t

theorem updateTimes_zero (a : Word) (p b : Bool) : updateTimes cfg t a p b 0 = t := rfl

theorem updateTimes_succ (a : Word) (p b : Bool) (k : Nat) :
    updateTimes cfg t a p b (k + 1) = updatePredictor cfg (updateTimes cfg t a p b k) a p b := by
  simp [updateTimes, List.range_succ]

theorem updateTimes_wf (h : sparseWf predReset t = true) (a : Word) (p b : Bool) (k : Nat) :
    sparseWf predReset (updateTimes cfg t a p b k) = true := by
  induction k with
  | zero => exact h
  | succ k ih => rw [updateTimes_succ]; exact updatePredictor_wf ih a p b

theorem level_updateTimes_of_ne (h : sparseWf predReset t = true) (a : Word) (p b : Bool) (k : Nat) {j : Nat}
    (hj : j ≠ predIndex cfg a) : (updateTimes cfg t a p b k).level j = t.level j := by
  induction k with
  | zero => rfl
  | succ k ih => rw [updateTimes_succ, level_updatePredictor (updateTimes_wf h a p b k), if_neg (hj ·.2), ih]

/-- Each update moves the entry one level toward the outcome, and the bounds 3 and 0 hold it. -/
theorem toNat_level_updateTimes (hp : cfg.predictor = .adaptive) (h : sparseWf predReset t = true) (a : Word)
    (p b : Bool) (k : Nat) : ((updateTimes cfg t a p b k).level (predIndex cfg a)).toNat =
      if b then min 3 ((t.level (predIndex cfg a)).toNat + k) else (t.level (predIndex cfg a)).toNat - k := by
  induction k with
  | zero =>
    have hlt := (t.level (predIndex cfg a)).isLt
    rw [updateTimes_zero]
    split <;> omega
  | succ k ih =>
    rw [updateTimes_succ, level_updatePredictor (updateTimes_wf h a p b k), if_pos ⟨hp, rfl⟩, toNat_moveLevel, ih]
    split <;> omega

/-- Settles O31: the entry's level after the updates is counted, the prediction reads that level, and the other entries
are not indexed. -/
theorem adaptiveEntriesSaturate : Obligations.AdaptiveEntriesSaturate := by
  intro cfg t a p k hp h
  have hup := toNat_level_updateTimes hp h a p true k
  have hdown := toNat_level_updateTimes hp h a p false k
  exact ⟨hup, hdown,
    fun j hj => ⟨level_updateTimes_of_ne h a p true k hj, level_updateTimes_of_ne h a p false k hj⟩,
    (predict_iff_of_adaptive hp a).trans (iff_of_eq (congrArg (2 ≤ ·) hup)),
    (predict_iff_of_adaptive hp a).trans (iff_of_eq (congrArg (2 ≤ ·) hdown))⟩

end Sys2Proof.Machine
end

section
/-! The cycle machine commits what the sequential machine executes (47_pipeline.md R440, R441, R443). A sequential state
is behind a cycle state when the two agree but for the store in W, which has already written (log 14); the entry in W is
what the sequential step runs, so each tick with an entry in W is one step and every other tick is none. -/

namespace Sys2Proof.Machine

open Sys2Proof.Spec

/-! ### Where the sequential step goes (R213, R453, R454) -/

theorem decodeBundle_eq_some {w : Word} {c : Bundle} (h : decodeBundle w = some c) :
    ∃ i, decode w = .ok i ∧ Instr.bundle i = c := by
  unfold decodeBundle at h
  split at h
  next i hi => cases h; exact ⟨i, hi, rfl⟩
  · cases h

theorem decodeBundle_eq_none {w : Word} (h : decodeBundle w = none) : ∃ r, decode w = .error r := by
  unfold decodeBundle at h
  split at h
  · cases h
  next r hr => exact ⟨r, hr⟩

section
variable {t : State} (hrun : t.status = .running)
include hrun

theorem step_of_selfModified (h : t.selfModified = true) : step t = .refused (.selfModifying t.pc) := by
  simp [step, State.fetchAndRun, hrun, h]

variable (hself : t.selfModified = false)
include hself

theorem step_of_fetchWord_none (h : t.fetchWord = none) : step t = t.raise .fetchFault t.pc 0#32 := by
  simp [step, State.fetchAndRun, hrun, hself, h]

theorem step_of_decodeBundle_none {w : Word} (hw : t.fetchWord = some w) (h : decodeBundle w = none) :
    step t = t.raise .decodeFault t.pc w := by
  obtain ⟨r, hr⟩ := decodeBundle_eq_none h
  simp [step, State.fetchAndRun, hrun, hself, hw, hr]

/-- A step of a word with row `c` is what the row answers, whatever was predicted. -/
theorem step_of_decodeBundle {w : Word} {c : Bundle} (hw : t.fetchWord = some w) (h : decodeBundle w = some c)
    (pred : Bool) : step t = mapNext State.restart (runRow t c w pred) := by
  obtain ⟨i, hi, rfl⟩ := decodeBundle_eq_some h
  obtain ⟨hencode, -⟩ := encodeInvertsDecode w i hi
  rw [step_of_decode hrun hself hw hi, ← runRow_bundle hrun (pred := pred) i, hencode]

end

/-! ### Where the tick goes, by the entry in W (R410, R411) -/

theorem writeBackStatus_of_marker {w : WriteBackReg} (hv : w.valid = true) {k : FaultKind} (hf : w.fault = some k) :
    writeBackStatus w = .faulted (k.toFault w.report) := by
  simp [writeBackStatus, hv, hf]

theorem writeBackStatus_of_not_marker {w : WriteBackReg} (h : w.valid = true → w.fault = none) :
    writeBackStatus w = .running ∨ writeBackStatus w = .halted := by
  obtain hv | ⟨hv, k, hf⟩ | hl := entry_cases w.toEntry
  · exact .inl (by simp [writeBackStatus, hv])
  · rw [h hv] at hf; cases hf
  · cases hh : w.c.halt with
    | false => exact .inl (by simp [writeBackStatus, valid_of_live hl, fault_of_live hl, hh])
    | true => exact .inr (by simp [writeBackStatus, valid_of_live hl, fault_of_live hl, hh])

theorem tick_of_tickSelfModified {u : State} (hrun : u.status = .running) (h : u.tickSelfModified = true) :
    tick u = .refused (.selfModifying u.w.pc) := by
  simp [tick, hrun, h]

namespace Unbroken

variable {u : State} (h : Unbroken u) (hself : u.tickSelfModified = false)
include h hself

theorem tick_of_marker (hv : u.w.valid = true) {k : FaultKind} (hf : u.w.fault = some k) :
    tick u = .fault (k.toFault u.w.report) := by
  simp [tick, h.running, hself, h.tickStatus, writeBackStatus_of_marker hv hf]

theorem tick_of_not_marker (hw : u.w.valid = true → u.w.fault = none) : tick u = .next u.nextTick := by
  obtain hst | hst := writeBackStatus_of_not_marker hw <;> simp [tick, h.running, hself, h.tickStatus, hst]

end Unbroken

/-! ### An entry that commits nothing -/

theorem memoryCommit_of_not_live {m : MemoryReg} (h : m.live = false) (dmem : Memory) : memoryCommit dmem m = dmem := by
  simp [memoryCommit, h]

section
variable {w : WriteBackReg} (h : w.live = false)
include h

theorem writeBackRegs_of_not_live (regs : RegFile) : writeBackRegs regs w = regs := by
  simp [writeBackRegs, Entry.dst, h]

theorem writeBackPc_of_not_live (a : Word) : writeBackPc a w = a := by
  simp [writeBackPc, h]

theorem writeBackPredictor_of_not_live (cfg : Config) (t : PredTable) : writeBackPredictor cfg t w = t := by
  simp [writeBackPredictor, h]

theorem writeBackStored_of_not_live (l : List Nat) : writeBackStored l w = l := by
  simp [writeBackStored, h]

end

theorem live_of_not_valid {n : Entry} (h : n.valid = false) : n.live = false := by
  simp [Entry.live, h]

theorem live_of_marker {n : Entry} {k : FaultKind} (h : n.fault = some k) : n.live = false := by
  simp [Entry.live, h]

/-- The entry M hands to W writes what it wrote in M, and nothing if M was empty. -/
theorem memoryCommit_memoryStage (dmem dmem' : Memory) (m : MemoryReg) :
    memoryCommit dmem' (memoryStage dmem m).toMemoryReg = memoryCommit dmem' m := by
  cases hv : m.valid with
  | true => rw [toMemoryReg_memoryStage_of_valid hv]
  | false =>
    rw [memoryStage_of_not_valid hv, memoryCommit_of_not_live (live_of_not_valid hv)]
    rfl

/-! ### A sequential state behind a cycle state -/

/-- `t` is where the sequential machine stands when the cycle machine is in `u`: the architectural state is the same,
and the store in W, if there is one, is still to be made (log 14). -/
structure Behind (t u : State) : Prop where
  cfg : t.cfg = u.cfg
  imem : t.imem = u.imem
  arch : sameArch u t
  dmem : u.dmem = memoryCommit t.dmem u.w.toMemoryReg

/-- What the instruction of an entry in W answers on `t`: its fault, or the state with the entry committed. -/
def entryAnswer (t : State) (w : WriteBackReg) : Result :=
  match w.fault with
  | some k => .fault (k.toFault w.report)
  | none => .next (commitEntry t w.toMemoryReg)

theorem entryAnswer_of_marker {t : State} {w : WriteBackReg} {k : FaultKind} (h : w.fault = some k) :
    entryAnswer t w = .fault (k.toFault w.report) := by
  simp only [entryAnswer, h]

theorem entryAnswer_of_live {t : State} {w : WriteBackReg} (h : w.live = true) :
    entryAnswer t w = .next (commitEntry t w.toMemoryReg) := by
  simp only [entryAnswer, fault_of_live h]

/-- An entry with a claim was issued as its row's entry on the committed registers. -/
theorem executeStage_issuedFrom {n : Entry} {t : State} (hc : n.holdsClaim = true) (hpc : n.pc = t.pc)
    (cfg : Config) : executeStage cfg (n.issuedFrom t.regs) = executeStage cfg (issuedEntry t n.c n.word n.pred) := by
  obtain ⟨valid, pc, word, c, pred, fault, addr⟩ := n
  obtain rfl : pc = t.pc := hpc
  obtain ⟨rfl, hk⟩ := Bool.and_eq_true_iff.1 hc
  cases fault with
  | none => exact executeStage_faultAddr (e := issuedEntry t c word pred) rfl addr
  | some k =>
    have hissued : (Entry.mk true t.pc word c pred (some k) addr).issuedFrom t.regs = issuedEntry t c word pred := by
      have hfrom : k.fromExecute = true := hk
      simp only [Entry.issuedFrom, hfrom, if_true]
      rfl
    rw [hissued]

/-- A valid entry without a claim is a fetch or a decode marker (R397, R452). -/
theorem fault_of_not_holdsClaim {n : Entry} (hv : n.valid = true) (hc : n.holdsClaim = false) :
    n.fault = some .fetchFault ∨ n.fault = some .decodeFault := by
  cases hf : n.fault with
  | none => simp [Entry.holdsClaim, hv, hf] at hc
  | some k =>
    cases k with
    | fetchFault => exact .inl rfl
    | decodeFault => exact .inr rfl
    | misalignedTarget | misalignedAccess | accessOutOfRange =>
      simp [Entry.holdsClaim, hv, hf, FaultKind.fromExecute] at hc

/-- The entry in W is what Execute made of its instruction on the committed registers. -/
theorem Coherent.toMemoryReg_w {u : State} (h : Coherent u) (hv : u.w.valid = true) :
    u.w.toMemoryReg = (executeStage u.cfg (u.w.toEntry.issuedFrom u.regs)).next := by
  obtain ⟨-, hw, -⟩ := wOnPath_iff.1 h.pathW hv
  have hvm : (executeStage u.cfg (u.w.toEntry.issuedFrom u.regs)).next.valid = true := by
    rw [hw, valid_memoryStage] at hv
    exact hv
  exact (congrArg WriteBackReg.toMemoryReg hw).trans (toMemoryReg_memoryStage_of_valid hvm)

/-- A coherent state is behind itself: making W's store again changes nothing. -/
theorem Coherent.behind_self {u : State} (h : Coherent u) : Behind u u where
  cfg := rfl
  imem := rfl
  arch := ⟨rfl, rfl, rfl, rfl, rfl⟩
  dmem := by
    cases hv : u.w.valid with
    | false => rw [memoryCommit_of_not_live (live_of_not_valid hv)]
    | true =>
      obtain ⟨-, -, hstored⟩ := wOnPath_iff.1 h.pathW hv
      exact hstored.symm

section
variable {t u : State} (hb : Behind t u) (h : Coherent u)
include hb h

namespace Behind

/-- Before its store is made, the entry in W is still what Memory makes of it. -/
theorem memoryStage_w (hv : u.w.valid = true) : memoryStage t.dmem u.w.toMemoryReg = u.w := by
  obtain ⟨-, hw, -⟩ := wOnPath_iff.1 h.pathW hv
  calc memoryStage t.dmem u.w.toMemoryReg
      _ = memoryStage u.dmem u.w.toMemoryReg := by rw [hb.dmem, memoryStage_memoryCommit]
      _ = u.w := (congrArg (memoryStage u.dmem) (h.toMemoryReg_w hv)).trans hw.symm

/-- The row of an entry with a claim answers what the entry does. -/
theorem runRow_w (hc : u.w.holdsClaim = true) : runRow t u.w.c u.w.word u.w.pred = entryAnswer t u.w := by
  have hv : u.w.valid = true := (Bool.and_eq_true_iff.1 hc).1
  obtain ⟨hregs, hpcs, -⟩ := hb.arch
  obtain ⟨hpc, -⟩ := wOnPath_iff.1 h.pathW hv
  have hm := h.toMemoryReg_w hv
  rw [hregs, ← hb.cfg, executeStage_issuedFrom hc (hpc.trans hpcs)] at hm
  cases hx : rowFault t u.w.c u.w.word u.w.pred with
  | none =>
    have hnext : u.w.toMemoryReg = executedEntry (issuedEntry t u.w.c u.w.word u.w.pred) :=
      hm.trans (next_of_noFault rfl hx)
    have hl : u.w.live = true := congrArg (fun m : MemoryReg => m.live) hnext
    rw [runRow_of_noFault hx, entryAnswer_of_live hl, ← hnext]
  | some f =>
    obtain ⟨k, a⟩ := f
    have hentry : u.w.toEntry =
        { (issuedEntry t u.w.c u.w.word u.w.pred).toEntry with fault := some k, faultAddr := a } :=
      (congrArg MemoryReg.toEntry hm).trans (toEntry_next_of_fault rfl hx)
    have hf : u.w.fault = some k := congrArg Entry.fault hentry
    have ha : u.w.faultAddr = a := congrArg Entry.faultAddr hentry
    rw [runRow_of_fault hx, entryAnswer_of_marker hf, State.raise, WriteBackReg.report, ha, hpc, hpcs]

/-- The two machines refuse the same words (I7). -/
theorem selfModified_eq (hv : u.w.valid = true) : t.selfModified = u.tickSelfModified := by
  obtain ⟨-, hpcs, -, hstored, -⟩ := hb.arch
  obtain ⟨hpc, -⟩ := wOnPath_iff.1 h.pathW hv
  simp [State.tickSelfModified, State.selfModified, hv, hpc, hstored, hpcs]

/-- The sequential step runs the entry in W. -/
theorem step_eq (hrun : u.status = .running) (hv : u.w.valid = true) (hself : u.tickSelfModified = false) :
    step t = mapNext State.restart (entryAnswer t u.w) := by
  obtain ⟨-, hpcs, -, -, hstatus⟩ := hb.arch
  obtain ⟨hpc, -⟩ := wOnPath_iff.1 h.pathW hv
  have hruns : t.status = .running := hstatus ▸ hrun
  have hselfs : t.selfModified = false := (hb.selfModified_eq h hv).trans hself
  have hfetch : t.fetchWord = if inRange u.cfg u.w.pc then some (u.imem.readWord (wordIndex u.w.pc)) else none := by
    rw [State.fetchWord, hb.cfg, hb.imem, hpc, hpcs]
  obtain ⟨hfetchFault, hword⟩ := wordOk_iff.1 h.wordW hv
  cases hc : u.w.holdsClaim with
  | true =>
    have hne : u.w.fault ≠ some .fetchFault := fun hf => by simp [Entry.holdsClaim, hf, FaultKind.fromExecute] at hc
    obtain ⟨hrange, hw, -⟩ := hword hne
    rw [if_pos hrange, ← hw] at hfetch
    rw [step_of_decodeBundle hruns hselfs hfetch ((bundleOk_iff.1 h.bundleW).1 hc) u.w.pred, hb.runRow_w h hc]
  | false =>
    obtain hf | hf := fault_of_not_holdsClaim hv hc
    · obtain ⟨hw, hrange, ha⟩ := hfetchFault hf
      rw [if_neg (by simp [hrange])] at hfetch
      rw [step_of_fetchWord_none hruns hselfs hfetch, entryAnswer_of_marker hf, WriteBackReg.report, hw, ha, hpc, hpcs]
      rfl
    · obtain ⟨hrange, hw, hdecode⟩ := hword (by simp [hf])
      obtain ⟨hnone, ha⟩ := hdecode hf
      rw [if_pos hrange, ← hw] at hfetch
      rw [step_of_decodeBundle_none hruns hselfs hfetch hnone, entryAnswer_of_marker hf, WriteBackReg.report, ha, hpc,
        hpcs]
      rfl


/-! ### One tick against at most one step (R440) -/

section
variable (hrun : u.status = .running)
include hrun

/-- A tick with nothing in W leaves the sequential machine where it stands. -/
theorem nextTick_of_empty (hv : u.w.valid = false) : Behind t u.nextTick := by
  obtain ⟨hregs, hpcs, hptab, hstored, hstatus⟩ := hb.arch
  have hl := live_of_not_valid hv
  have hdmem : u.dmem = t.dmem := hb.dmem.trans (memoryCommit_of_not_live hl _)
  refine ⟨?_, ?_, ⟨?_, ?_, ?_, ?_, ?_⟩, ?_⟩
  · rw [nextTick_cfg hrun, hb.cfg]
  · rw [nextTick_imem hrun, hb.imem]
  · rw [nextTick_regs hrun, writeBackRegs_of_not_live hl, hregs]
  · rw [nextTick_pc hrun, writeBackPc_of_not_live hl, hpcs]
  · rw [nextTick_ptab hrun, writeBackPredictor_of_not_live hl, hptab]
  · rw [nextTick_stored hrun, writeBackStored_of_not_live hl, hstored]
  · rw [(status_nextTick_iff (coherent_iff.2 h) hrun).2 (terminal_of_not_valid hv), ← hstatus, hrun]
  · rw [nextTick_dmem hrun, nextTick_w hrun, memoryCommit_memoryStage, hdmem]

/-- A tick that commits a live entry moves the sequential machine to the state with that entry committed. -/
theorem nextTick_of_live (hl : u.w.live = true) : Behind (commitEntry t u.w.toMemoryReg).restart u.nextTick := by
  obtain ⟨hregs, hpcs, hptab, hstored, -⟩ := hb.arch
  have hw := hb.memoryStage_w h (valid_of_live hl)
  refine ⟨?_, ?_, ⟨?_, ?_, ?_, ?_, ?_⟩, ?_⟩
  · rw [nextTick_cfg hrun, ← hb.cfg]; rfl
  · rw [nextTick_imem hrun, ← hb.imem]; rfl
  · rw [nextTick_regs hrun, hregs, State.restart_regs, commitEntry, hw]
  · rw [nextTick_pc hrun, hpcs, State.restart_pc, commitEntry, hw]
  · rw [nextTick_ptab hrun, hptab, State.restart_ptab, commitEntry, hw, hb.cfg]
  · rw [nextTick_stored hrun, hstored, State.restart_stored, commitEntry, hw]
  · rw [nextTick_status hrun, (unbroken_of_coherent (coherent_iff.2 h) hrun).tickStatus, State.restart_status,
      commitEntry, hw]
  · rw [nextTick_dmem hrun, nextTick_w hrun, memoryCommit_memoryStage, State.restart_dmem, commitEntry, ← hb.dmem]

/-- Behind a marker nothing writes, so the tick that ends the run leaves the sequential registers and data memory. -/
theorem nextTick_of_marker (hv : u.w.valid = true) {k : FaultKind} (hf : u.w.fault = some k) :
    u.nextTick.regs = t.regs ∧ u.nextTick.dmem = t.dmem := by
  obtain ⟨hregs, -⟩ := hb.arch
  obtain ⟨-, -, hempty, -⟩ := haltOk_iff.1 h.halt
  obtain ⟨-, hm⟩ := hempty (by simp [Entry.terminal, hv, hf])
  have hl := live_of_marker hf
  constructor
  · rw [nextTick_regs hrun, writeBackRegs_of_not_live hl, hregs]
  · rw [nextTick_dmem hrun, memoryCommit_of_not_live (live_of_not_valid hm), hb.dmem, memoryCommit_of_not_live hl]

end

end Behind
end

/-- What a tick with an entry in W and a sequential step answer alike: a next state each, the step's data memory the one
W's store has already left; the same fault, with the registers and data memory of `t` left behind; or the same
refusal. -/
inductive CommitsAlike (t u : State) : Prop where
  | next (t' : State) (hstep : step t = .next t') (htick : tick u = .next u.nextTick) (hdmem : t'.dmem = u.dmem)
      (hbehind : Behind t' u.nextTick)
  | fault (r : Fault) (hstep : step t = .fault r) (htick : tick u = .fault r) (hregs : u.nextTick.regs = t.regs)
      (hdmem : u.nextTick.dmem = t.dmem)
  | refused (r : Refusal) (hstep : step t = .refused r) (htick : tick u = .refused r)

section
variable {t u : State} (hb : Behind t u) (h : Coherent u) (hrun : u.status = .running)
include hb h hrun

theorem Behind.tick_of_empty (hv : u.w.valid = false) : tick u = .next u.nextTick ∧ Behind t u.nextTick := by
  have hself : u.tickSelfModified = false := by simp [State.tickSelfModified, hv]
  exact ⟨(unbroken_of_coherent (coherent_iff.2 h) hrun).tick_of_not_marker hself (by simp [hv]),
    hb.nextTick_of_empty h hrun hv⟩

theorem Behind.commitsAlike (hv : u.w.valid = true) : CommitsAlike t u := by
  have hunbroken := unbroken_of_coherent (coherent_iff.2 h) hrun
  obtain ⟨-, hpcs, -, -, hstatus⟩ := hb.arch
  obtain ⟨hpc, -⟩ := wOnPath_iff.1 h.pathW hv
  cases hself : u.tickSelfModified with
  | true =>
    have hselfs : t.selfModified = true := (hb.selfModified_eq h hv).trans hself
    refine .refused (.selfModifying u.w.pc) ?_ (tick_of_tickSelfModified hrun hself)
    rw [step_of_selfModified (hstatus ▸ hrun) hselfs, hpc, hpcs]
  | false =>
    have hstep := hb.step_eq h hrun hv hself
    cases hf : u.w.fault with
    | some k =>
      obtain ⟨hregs, hdmem⟩ := hb.nextTick_of_marker h hrun hv hf
      rw [entryAnswer_of_marker hf] at hstep
      exact .fault _ hstep (hunbroken.tick_of_marker hself hv hf) hregs hdmem
    | none =>
      have hl : u.w.live = true := live_iff.2 ⟨hv, hf⟩
      rw [entryAnswer_of_live hl] at hstep
      exact .next _ hstep (hunbroken.tick_of_not_marker hself fun _ => hf) hb.dmem.symm (hb.nextTick_of_live h hrun hl)

end

/-- Settles O46: a coherent state is behind itself, so its tick commits what its step executes when an entry is in W,
and leaves the sequential machine where it stands when none is. -/
theorem tickCommitsWhatStepExecutes : Obligations.TickCommitsWhatStepExecutes := by
  intro s hcoh hrun
  have h := coherent_iff.1 hcoh
  have hb := h.behind_self
  refine ⟨fun hv => ?_, fun hv => ?_⟩
  · obtain ⟨htick, hb'⟩ := hb.tick_of_empty h hrun hv
    exact ⟨s.nextTick, htick, hb'.arch, nextTick_dmem hrun⟩
  · cases hb.commitsAlike h hrun hv with
    | next t' hstep htick hdmem hb' =>
      rw [hstep, htick]
      refine ⟨fun u hu => ?_, nofun, nofun⟩
      obtain rfl : t' = u := by injection hu
      exact ⟨hdmem, s.nextTick, rfl, hb'.arch, by rw [nextTick_dmem hrun, hdmem]⟩
    | fault r hstep htick _ _ =>
      rw [hstep, htick]
      exact ⟨fun _ hu => (nomatch hu), fun _ hr => hr, nofun⟩
    | refused r hstep htick =>
      rw [hstep, htick]
      exact ⟨fun _ hu => (nomatch hu), nofun, fun _ hr => hr⟩

end Sys2Proof.Machine
end

section
/-! Whole cycle runs against whole sequential runs (47_pipeline.md R440, R443): tick by tick, the sequential machine
takes a step for each entry in W and stands still otherwise. -/

namespace Sys2Proof.Machine

open Sys2Proof.Spec

/-! ### Runs, one tick or step at a time -/

section
variable {s : State} (n : Nat)

theorem ticks_succ_of_fault {r : Fault} (h : tick s = .fault r) : ticks (n + 1) s = .fault r := by
  simp only [ticks, Host.Core.run, cycleCore, h]

theorem steps_succ_of_next {t : State} (h : step s = .next t) : steps (n + 1) s = steps n t := by
  simp only [steps, Host.Core.run, core, h]

theorem steps_succ_of_fault {r : Fault} (h : step s = .fault r) : steps (n + 1) s = .fault r := by
  simp only [steps, Host.Core.run, core, h]

theorem steps_succ_of_refused {r : Refusal} (h : step s = .refused r) : steps (n + 1) s = .refused r := by
  simp only [steps, Host.Core.run, core, h]

/-- A run that has ended stays where it is (R317). -/
theorem ticks_of_ended (h : s.status ≠ .running) : ticks n s = .next s := by
  induction n with
  | zero => rfl
  | succ n ih => rw [ticks_succ_of_next n (tick_of_ended h), ih]

theorem steps_add_fault {t : State} {k : Nat} {r : Fault} (hk : steps k s = .next t) (h : step t = .fault r) :
    steps (k + 1) s = .fault r := by
  induction k generalizing s with
  | zero => cases hk; exact steps_succ_of_fault 0 h
  | succ k ih =>
    cases hs : step s with
    | next s' =>
      rw [steps_succ_of_next k hs] at hk
      rw [steps_succ_of_next (k + 1) hs, ih hk]
    | fault r' => rw [steps_succ_of_fault k hs] at hk; cases hk
    | refused r' => rw [steps_succ_of_refused k hs] at hk; cases hk

end

/-! ### The runs refine -/

/-- The runs from `u` and from a state `t` behind it: whatever `n` ticks answer, at most `n` steps answer. -/
structure Refines (n : Nat) (t u : State) : Prop where
  next : ∀ v, ticks n u = .next v → ∃ k t', k ≤ n ∧ steps k t = .next t' ∧ Behind t' v
  fault : ∀ r, ticks n u = .fault r → ∃ m v k t', m < n ∧ ticks m u = .next v ∧ tick v = .fault r ∧ k ≤ m
    ∧ steps k t = .next t' ∧ step t' = .fault r ∧ sameArch v t' ∧ v.nextTick.regs = t'.regs
    ∧ v.nextTick.dmem = t'.dmem
  refused : ∀ r, ticks n u = .refused r → ∃ k, k ≤ n ∧ steps k t = .refused r

/-- A tick for which the sequential machine takes `j` steps, at most one, in front of runs that refine. -/
theorem Refines.succ {n j : Nat} {t t' u u' : State} (hj : j ≤ 1) (hsteps : ∀ k, steps (k + j) t = steps k t')
    (htick : tick u = .next u') (h : Refines n t' u') : Refines (n + 1) t u where
  next v hv := by
    rw [ticks_succ_of_next n htick] at hv
    obtain ⟨k, w, hk, hrun, hb⟩ := h.next v hv
    exact ⟨k + j, w, by omega, (hsteps k).trans hrun, hb⟩
  fault r hr := by
    rw [ticks_succ_of_next n htick] at hr
    obtain ⟨m, v, k, w, hm, hv, hfault, hk, hrun, hrest⟩ := h.fault r hr
    exact ⟨m + 1, v, k + j, w, by omega, (ticks_succ_of_next m htick).trans hv, hfault, by omega,
      (hsteps k).trans hrun, hrest⟩
  refused r hr := by
    rw [ticks_succ_of_next n htick] at hr
    obtain ⟨k, hk, hrun⟩ := h.refused r hr
    exact ⟨k + j, by omega, (hsteps k).trans hrun⟩

theorem Refines.of_next {n : Nat} {t u : State} (hu : ticks n u = .next u) (hb : Behind t u) : Refines n t u where
  next v hv := by
    rw [hu] at hv
    obtain rfl : u = v := by injection hv
    exact ⟨0, t, by omega, rfl, hb⟩
  fault r hr := by rw [hu] at hr; cases hr
  refused r hr := by rw [hu] at hr; cases hr

section
variable {n : Nat} {t u : State}

/-- The state of the faulting tick and the sequential state are `u` and `t` themselves. -/
theorem Refines.of_fault {r : Fault} (hb : Behind t u) (hstep : step t = .fault r) (htick : tick u = .fault r)
    (hregs : u.nextTick.regs = t.regs) (hdmem : u.nextTick.dmem = t.dmem) : Refines (n + 1) t u where
  next v hv := by rw [ticks_succ_of_fault n htick] at hv; cases hv
  fault r' hr := by
    rw [ticks_succ_of_fault n htick] at hr
    obtain rfl : r = r' := by injection hr
    exact ⟨0, u, 0, t, by omega, rfl, htick, le_rfl, rfl, hstep, hb.arch, hregs, hdmem⟩
  refused r' hr := by rw [ticks_succ_of_fault n htick] at hr; cases hr

theorem Refines.of_refused {r : Refusal} (hstep : step t = .refused r) (htick : tick u = .refused r) :
    Refines (n + 1) t u where
  next v hv := by rw [ticks_succ_of_refused n htick] at hv; cases hv
  fault r' hr := by rw [ticks_succ_of_refused n htick] at hr; cases hr
  refused r' hr := by
    rw [ticks_succ_of_refused n htick] at hr
    obtain rfl : r = r' := by injection hr
    exact ⟨1, by omega, steps_succ_of_refused 0 hstep⟩

end

/-- By induction on the ticks: an ended run stands still, a coherent one takes a tick with or without an entry in W. -/
theorem refines_of_behind {t u : State} (hb : Behind t u) (hcoh : u.status = .running → Coherent u) (n : Nat) :
    Refines n t u := by
  induction n generalizing t u with
  | zero => exact .of_next rfl hb
  | succ n ih =>
    by_cases hrun : u.status = .running
    case neg => exact .of_next (ticks_of_ended _ hrun) hb
    have h := hcoh hrun
    have hnext : u.nextTick.status = .running → Coherent u.nextTick := fun hgo =>
      h.nextTick hrun ((status_nextTick_iff (coherent_iff.2 h) hrun).1 hgo)
    cases hv : u.w.valid with
    | false =>
      obtain ⟨htick, hb'⟩ := hb.tick_of_empty h hrun hv
      exact (ih hb' hnext).succ (j := 0) (by omega) (fun _ => rfl) htick
    | true =>
      cases hb.commitsAlike h hrun hv with
      | next t' hstep htick _ hb' =>
        exact (ih hb' hnext).succ (j := 1) le_rfl (fun k => steps_succ_of_next k hstep) htick
      | fault r hstep htick hregs hdmem => exact .of_fault hb hstep htick hregs hdmem
      | refused r hstep htick => exact .of_refused hstep htick

/-- Settles O47: a drained state is coherent, so it is behind itself, and the runs from there refine. -/
theorem cycleRunsRefineSequentialRuns : Obligations.CycleRunsRefineSequentialRuns := by
  intro s n hinv hdrained hrun
  have h := coherent_iff.1 (coherent_of_drained hinv hdrained hrun)
  have href := refines_of_behind h.behind_self (fun _ => h) n
  refine ⟨fun u hu => ?_, fun r hr => ?_, href.refused⟩
  · obtain ⟨k, t, hk, hsteps, hb⟩ := href.next u hu
    exact ⟨k, t, hk, hsteps, hb.arch, hb.dmem⟩
  · obtain ⟨m, u, k, t, hm, hu, htick, hk, hsteps, hstep, hrest⟩ := href.fault r hr
    exact ⟨m, u, k, t, hm, hu, htick, hk, hsteps, hstep, steps_add_fault hsteps hstep, hrest⟩

end Sys2Proof.Machine
end

section
/-! What one tick leaves of Fetch, D and E, and what a marker in W leaves (47_pipeline.md R392, R394, R411, R412,
R414). -/

namespace Sys2Proof.Machine

/-! ### F.pc (R392, R394) -/

/-- Every row gives F.pc the address Fetch selects (R394). -/
theorem selection_f_pc (s : State) : s.selection.f.pc = (fetchAddress s.f).1 := by
  cases hx : (executeStage s.cfg s.e).squash with
  | true => rw [selection_of_squash hx]
  | false =>
    cases ho : decodeStage s with
    | idle => rw [selection_of_idle hx ho]
    | stall => rw [selection_of_stall hx ho]
    | marker e => rw [selection_of_marker hx ho]
    | issue e =>
      cases hp : predictedRedirect e with
      | none => rw [selection_of_issue hx ho hp]
      | some a => rw [selection_of_predicted hx ho hp]

/-- Settles O35: every row of R412 and R413 gives F.pc the fetch address, selected as R392 says. -/
theorem fetchAddressSelection : Obligations.FetchAddressSelection := by
  intro s t hrun htick
  rw [eq_nextTick_of_tick hrun htick, nextTick_f hrun, selection_f_pc, ← nextPc_eq_ofNat]
  unfold fetchAddress
  split_ifs <;> rfl

/-! ### A squash (R412) -/

/-- Settles O36: a redirect squashes, and R412's row makes it the pending one, which Fetch takes first. -/
theorem executeRedirectSteersFetch : Obligations.ExecuteRedirectSteersFetch := by
  intro s t a hrun htick hflush
  have hx : (executeStage s.cfg s.e).squash = true := by simp [ExecuteOut.squash, hflush]
  rw [eq_nextTick_of_tick hrun htick, nextTick_e hrun, nextTick_d hrun, nextTick_f hrun, selection_of_squash hx, hflush]
  exact ⟨rfl, rfl, rfl, rfl, rfl, rfl, rfl, rfl⟩

/-- The row of a squash does not read D. -/
theorem selection_replace_d {s : State} (hx : (executeStage s.cfg s.e).squash = true) (d : DecodeReg) :
    State.selection { s with d := d } = s.selection :=
  (selection_of_squash (s := { s with d := d }) hx).trans (selection_of_squash hx).symm

/-- Settles O37: a tick reads D only for the selection, and puts a new D in its place. -/
theorem squashedInstructionsLeaveNoTrace : Obligations.SquashedInstructionsLeaveNoTrace := by
  intro s d hx hrun
  have hsel := selection_replace_d hx d
  have hviolation : State.violation { s with d := d } = s.violation := by simp only [State.violation, hsel]
  have hstatus : State.tickStatus { s with d := d } = s.tickStatus := by simp only [State.tickStatus, hviolation]
  have hgo : ¬ s.status ≠ .running := not_not.2 hrun
  have hnext : State.nextTick { s with d := d } = s.nextTick := by
    simp only [State.nextTick, hsel, hstatus, if_neg hgo]
  simp only [tick, hstatus, hnext, if_neg hgo]
  rfl

/-! ### A marker in W (R411, R414) -/

/-- Settles O39: a marker is not live, so WriteBack commits nothing of it, and behind it M is empty. -/
theorem markersEndTheRunUnchanged : Obligations.MarkersEndTheRunUnchanged := by
  intro s k hrun hv hf
  have hl := live_of_marker hf
  have hstatus (h : s.violation = none) : s.tickStatus = .faulted (k.toFault s.w.report) := by
    simp only [State.tickStatus, h, writeBackStatus_of_marker hv hf]
  refine ⟨?regs, ?ptab, ?pc, ?record, ?stored, fun hcoh => ?dmem, fun h => ?status, fun h hself => ?tick⟩
  case regs => rw [nextTick_regs hrun, writeBackRegs_of_not_live hl]
  case ptab => rw [nextTick_ptab hrun, writeBackPredictor_of_not_live hl]
  case pc => rw [nextTick_pc hrun, writeBackPc_of_not_live hl]
  case record => simp [State.traceRecord, hl]
  case stored => rw [nextTick_stored hrun, writeBackStored_of_not_live hl]
  case dmem =>
    have h := coherent_iff.1 hcoh
    obtain ⟨-, hdmem⟩ := h.behind_self.nextTick_of_marker h hrun hv hf
    exact hdmem
  case status => exact (nextTick_status hrun).trans (hstatus h)
  case tick => simp [tick, hrun, hself, hstatus h, WriteBackReg.report]

end Sys2Proof.Machine
end

section
/-! Bounded progress (47_pipeline.md R442): Decode does not wait for an entry in W, and in four ticks the oldest entry,
or the one Fetch brings, is in W. -/

namespace Sys2Proof.Machine

open Sys2Proof.Spec

/-! ### Decode does not wait for W alone (R336, R337, R499) -/

theorem claims_of_not_valid {n : Entry} (h : n.valid = false) (r : Reg) : n.claims r = 0 := by
  simp [Entry.claims, releaseTarget_of_not_valid h]

/-- Of an entry that ends no run, a claim is a write to come (R335, R340). -/
theorem dst_of_claims {n : Entry} {r : Reg} (ht : n.terminal = false) (h : n.claims r ≠ 0) : n.dst = some r := by
  have htarget : n.releaseTarget = some r := by
    by_contra hne
    exact h (if_neg hne)
  have hv : n.valid = true := by
    by_contra hv
    rw [releaseTarget_of_not_valid (by simpa using hv)] at htarget
    cases htarget
  have hl := live_of_not_terminal hv ht
  rw [releaseTarget_of_live hl] at htarget
  rw [Entry.dst, if_pos hl, htarget]

section
variable {s : State} (h : Coherent s) (he : s.e.valid = false) (hm : s.m.valid = false)
include h he hm

namespace Coherent

/-- With E and M empty, a register that is claimed is W's, and its value is forwarded. -/
theorem exists_canRead (hf : s.f.halted = false) (r : Reg) : ∃ v, s.canRead r = some v := by
  by_cases h0 : r = 0#5
  · exact ⟨_, if_pos h0⟩
  by_cases hcnt : s.cnt.count r = 0#2
  · exact ⟨_, (if_neg h0).trans (if_pos hcnt)⟩
  have hcount := (countersOk_iff s).1 h.counters r
  rw [claims_of_not_valid he, claims_of_not_valid hm, Nat.zero_add] at hcount
  have hclaim : s.w.claims r ≠ 0 := fun hz => hcnt (BitVec.eq_of_toNat_eq (hcount.trans hz))
  obtain ⟨-, -, hw⟩ := not_terminal_of_coherent (coherent_iff.2 h) hf
  have hbyp := h.bypass
  rw [State.bypassOk, decide_eq_true_eq, dst_of_not_valid he, dst_of_not_valid hm, dst_of_claims hw hclaim] at hbyp
  exact ⟨wbValue s.w, by simp [State.canRead, h0, hcnt, hbyp]⟩

theorem exists_source (hf : s.f.halted = false) (valid : Bool) (r : Reg) : ∃ v, s.source valid r = some v := by
  cases valid with
  | false => exact ⟨0#32, rfl⟩
  | true => exact h.exists_canRead he hm hf r

/-- So Decode does not stall. -/
theorem not_stall : decodeStage s ≠ .stall := by
  intro hstall
  obtain ⟨-, hf⟩ := decoding_of_ne_idle (s := s) (by simp [hstall])
  unfold decodeStage at hstall
  split_ifs at hstall
  split at hstall
  · cases hstall
  next c _ =>
    obtain ⟨v1, h1⟩ := h.exists_source he hm hf c.rs1Valid c.rs1
    obtain ⟨v2, h2⟩ := h.exists_source he hm hf c.rs2Valid c.rs2
    simp [State.tryIssue, h1, h2] at hstall

/-- With E and M empty, D's instruction is issued or becomes a marker (R396–R399). -/
theorem valid_selection_of_d (hf : s.f.halted = false) (hd : s.d.valid = true) : s.selection.e.valid = true := by
  have hx : (executeStage s.cfg s.e).squash = false := by rw [executeStage_of_not_valid he]; rfl
  cases ho : decodeStage s with
  | idle => simpa [hf, hd] using decodeStage_eq_idle ho
  | stall => exact absurd ho (h.not_stall he hm)
  | marker e =>
    rw [selection_of_marker hx ho]
    exact (Bool.and_eq_true_iff.1 (terminal_of_marker ho)).1
  | issue e =>
    rw [State.selection, ho, selectNext_e_of_issue hx]
    exact valid_of_live (issuedFromD ho).live

end Coherent
end

/-! ### Stalls in a row -/

/-- Whether or not Execute squashes, a stall leaves E empty. -/
theorem selection_e_of_stall {s : State} (ho : decodeStage s = .stall) : s.selection.e = .bubble := by
  cases hx : (executeStage s.cfg s.e).squash with
  | true => rw [selection_of_squash hx]
  | false => rw [selection_of_stall hx ho]

/-- A tick in which Decode stalls keeps coherence, as Fetch is not halted and the run goes on. -/
theorem Coherent.nextTick_of_stall {s t : State} (h : Coherent s) (hrun : s.status = .running)
    (ho : decodeStage s = .stall) (htick : tick s = .next t) :
    t = s.nextTick ∧ Coherent t ∧ t.status = .running ∧ t.e = .bubble := by
  obtain rfl := eq_nextTick_of_tick hrun htick
  obtain ⟨-, hf⟩ := decoding_of_ne_idle (s := s) (by simp [ho])
  obtain ⟨-, -, hw⟩ := not_terminal_of_coherent (coherent_iff.2 h) hf
  exact ⟨rfl, h.nextTick hrun hw, (status_nextTick_iff (coherent_iff.2 h) hrun).2 hw,
    (nextTick_e hrun).trans (selection_e_of_stall ho)⟩

/-- Settles O50: two stalls leave E and M empty, and then Decode waits for nothing. -/
theorem stallsLastAtMostTwoCycles : Obligations.StallsLastAtMostTwoCycles := by
  intro s t u hcoh hrun hs hst ht htu
  obtain ⟨-, htcoh, htrun, hte⟩ := (coherent_iff.1 hcoh).nextTick_of_stall hrun hs hst
  obtain ⟨rfl, hucoh, -, hue⟩ := htcoh.nextTick_of_stall htrun ht htu
  refine hucoh.not_stall (by rw [hue]; rfl) ?_
  rw [nextTick_m htrun, hte]
  rfl

/-! ### An entry reaches W -/

/-- Within `n` ticks the machine is in a running state with an entry in W. -/
def ReachesW (n : Nat) (s : State) : Prop :=
  ∃ k u, k ≤ n ∧ ticks k s = .next u ∧ u.w.valid = true ∧ u.status = .running

theorem reachesW_of_w {s : State} (hrun : s.status = .running) (hv : s.w.valid = true) (n : Nat) : ReachesW n s :=
  ⟨0, s, Nat.zero_le n, rfl, hv, hrun⟩

section
variable {s : State} (h : Coherent s) (hrun : s.status = .running)
include h hrun

namespace Coherent

/-- While W is empty a tick goes on, and keeps coherence. -/
theorem reachesW_succ {n : Nat} (hn : Coherent s.nextTick → s.nextTick.status = .running → ReachesW n s.nextTick) :
    ReachesW (n + 1) s := by
  cases hv : s.w.valid with
  | true => exact reachesW_of_w hrun hv (n + 1)
  | false =>
    have hw := terminal_of_not_valid hv
    obtain ⟨k, u, hk, hticks, hu⟩ :=
      hn (h.nextTick hrun hw) ((status_nextTick_iff (coherent_iff.2 h) hrun).2 hw)
    obtain ⟨htick, -⟩ := h.behind_self.tick_of_empty h hrun hv
    exact ⟨k + 1, u, by omega, (ticks_succ_of_next k htick).trans hticks, hu⟩

theorem reachesW_of_m (hm : s.m.valid = true) : ReachesW 1 s :=
  h.reachesW_succ hrun fun _ hgo => reachesW_of_w hgo (by rwa [nextTick_w hrun, valid_memoryStage]) 0

theorem reachesW_of_e (he : s.e.valid = true) : ReachesW 2 s :=
  h.reachesW_succ hrun fun hnext hgo => hnext.reachesW_of_m hgo (by rwa [nextTick_m hrun, valid_next])

section
variable (he : s.e.valid = false)
include he

theorem reachesW_of_d (hm : s.m.valid = false) (hf : s.f.halted = false) (hd : s.d.valid = true) : ReachesW 3 s :=
  h.reachesW_succ hrun fun hnext hgo =>
    hnext.reachesW_of_e hgo (by rw [nextTick_e hrun]; exact h.valid_selection_of_d he hm hf hd)

/-- With E and D empty Fetch brings D an entry, and leaves E and M empty ahead of it (R392). -/
theorem reachesW_of_fetch (hf : s.f.halted = false) (hd : s.d.valid = false) : ReachesW 4 s := by
  have hx : (executeStage s.cfg s.e).squash = false := by rw [executeStage_of_not_valid he]; rfl
  have ho : decodeStage s = .idle := by simp [decodeStage, hd]
  have hsel := selection_of_idle hx ho
  obtain ⟨hfetched, -⟩ := fetched_of_fetching (s := s) (by rw [h.fetchAddress_of_empty_d hf hd])
  refine h.reachesW_succ hrun fun hnext hgo => hnext.reachesW_of_d hgo ?_ ?_ ?_ ?_
  · rw [nextTick_e hrun, hsel]; rfl
  · rw [nextTick_m hrun, valid_next, he]
  · rw [nextTick_f hrun, hsel]; exact hf
  · rw [nextTick_d hrun, hsel]; exact hfetched

end
end Coherent
end

theorem ReachesW.mono {m n : Nat} {s : State} (hmn : m ≤ n) : ReachesW m s → ReachesW n s :=
  fun ⟨k, u, hk, hu⟩ => ⟨k, u, hk.trans hmn, hu⟩

/-- Settles O49, by the foremost entry in flight; with none, Fetch is not halted and D or Fetch holds the next. -/
theorem somethingReachesWriteBack : Obligations.SomethingReachesWriteBack := by
  intro s hcoh hrun
  have h := coherent_iff.1 hcoh
  change ReachesW 4 s
  cases hw : s.w.valid with
  | true => exact reachesW_of_w hrun hw 4
  | false =>
    cases hm : s.m.valid with
    | true => exact (h.reachesW_of_m hrun hm).mono (by omega)
    | false =>
      cases he : s.e.valid with
      | true => exact (h.reachesW_of_e hrun he).mono (by omega)
      | false =>
        have hf : s.f.halted = false := by
          obtain ⟨hlatch, -⟩ := haltOk_iff.1 h.halt
          rw [hlatch, terminal_of_not_valid he, terminal_of_not_valid hm, terminal_of_not_valid hw]
          rfl
        cases hd : s.d.valid with
        | true => exact (h.reachesW_of_d hrun he hm hf hd).mono (by omega)
        | false => exact h.reachesW_of_fetch hrun he hf hd

end Sys2Proof.Machine
end

section
/-! What a step computes does not depend on the predictor or the pipeline (47_pipeline.md R443, R49, R380): from two
states that agree on what a step reads, every instruction gives the same answer. -/

namespace Sys2Proof.Machine

/-! ### States that agree on what a step reads -/

/-- The two states agree on everything but the predictor's policy, index width and table, and the pipeline. -/
structure SameResults (s t : State) : Prop where
  regs : t.regs = s.regs
  pc : t.pc = s.pc
  memWords : t.cfg.memWords = s.cfg.memWords
  imem : t.imem = s.imem
  dmem : t.dmem = s.dmem
  status : t.status = s.status
  stored : t.stored = s.stored

/-- The same next state, up to what a step does not read, the same fault or the same refusal. -/
inductive SameAnswer : Result → Result → Prop where
  | next {s t : State} (h : SameResults s t) : SameAnswer (.next s) (.next t)
  | fault (r : Fault) : SameAnswer (.fault r) (.fault r)
  | refused (r : Refusal) : SameAnswer (.refused r) (.refused r)

theorem SameAnswer.mapNext_restart {a b : Result} (h : SameAnswer a b) :
    SameAnswer (mapNext State.restart a) (mapNext State.restart b) := by
  cases h with
  | next h => exact .next { h with }
  | fault r => exact .fault r
  | refused r => exact .refused r

/-- What the second answers, by the answer of the first. -/
theorem SameAnswer.answers {a b : Result} (h : SameAnswer a b) :
    (∀ s, a = .next s → ∃ t, b = .next t ∧ SameResults s t) ∧ (∀ r, a = .fault r → b = .fault r)
      ∧ ∀ r, a = .refused r → b = .refused r := by
  cases h with
  | @next s t h =>
    refine ⟨fun u hu => ?_, fun _ hr => (nomatch hr), fun _ hr => (nomatch hr)⟩
    obtain rfl : s = u := by injection hu
    exact ⟨t, rfl, h⟩
  | fault r => exact ⟨fun _ hu => (nomatch hu), fun _ hr => hr, fun _ hr => (nomatch hr)⟩
  | refused r => exact ⟨fun _ hu => (nomatch hu), fun _ hr => (nomatch hr), fun _ hr => hr⟩

/-! ### What the agreement says of fetch and the address check -/

theorem inRange_congr {c d : Config} (h : d.memWords = c.memWords) (a : Word) : inRange d a = inRange c a := by
  simp only [inRange, h]

theorem accessCheck_congr {c d : Config} (h : d.memWords = c.memWords) (a : Word) (n : Nat) :
    accessCheck d a n = accessCheck c a n := by
  simp only [accessCheck, inRange_congr h]

section
variable {s t : State} (h : SameResults s t)
include h

namespace SameResults

theorem x_eq (r : Reg) : t.x r = s.x r := State.x_congr h.regs r

theorem fetchWord_eq : t.fetchWord = s.fetchWord := by
  simp only [State.fetchWord, inRange_congr h.memWords, h.pc, h.imem]

theorem selfModified_eq : t.selfModified = s.selfModified := by
  simp only [State.selfModified, h.stored, h.pc]

/-! ### What each update keeps of the agreement -/

theorem writeReg (r : Reg) (v : Word) : SameResults (s.writeReg r v) (t.writeReg r v) :=
  { h with regs := by rw [State.writeReg_regs, State.writeReg_regs, h.regs] }

theorem setPc (a : Word) : SameResults (s.setPc a) (t.setPc a) := { h with pc := rfl }

theorem advance : SameResults s.advance t.advance := by
  rw [State.advance, State.advance, h.pc]
  exact h.setPc _

theorem store (a : Word) (n : Nat) (v : Word) :
    SameResults ((s.setDmem (s.dmem.store a n v)).noteStore a) ((t.setDmem (t.dmem.store a n v)).noteStore a) :=
  { h with
    dmem := congrArg (Memory.store · a n v) h.dmem
    stored := congrArg (insertIndex · (wordIndex a)) h.stored }

/-- Training changes the table only, each state's in its own way. -/
theorem trainBranch (taken : Bool) : SameResults (s.trainBranch taken) (t.trainBranch taken) := { h with }

theorem haltStep : SameResults s.haltStep t.haltStep := { h with status := rfl }

end SameResults

/-! ### What each kind of instruction answers -/

theorem raise_sameAnswer (k : FaultKind) (info word : Word) :
    SameAnswer (s.raise k info word) (t.raise k info word) := by
  rw [State.raise, State.raise, h.pc]
  exact .fault _

theorem retire_sameAnswer (rd : Reg) (v : Word) : SameAnswer (s.retire rd v) (t.retire rd v) :=
  .next (h.writeReg rd v).advance

theorem aluReg_sameAnswer (op : AluOp) (rd rs1 rs2 : Reg) :
    SameAnswer (aluReg op rd rs1 rs2 s) (aluReg op rd rs1 rs2 t) := by
  rw [aluReg, aluReg, h.x_eq, h.x_eq]
  exact retire_sameAnswer h rd _

theorem aluImm_sameAnswer (op : AluOp) (rd rs1 : Reg) (imm : Word) :
    SameAnswer (aluImm op rd rs1 imm s) (aluImm op rd rs1 imm t) := by
  rw [aluImm, aluImm, h.x_eq]
  exact retire_sameAnswer h rd _

theorem loadWith_sameAnswer (k : MemKind) (i : Instr) (rd rs1 : Reg) (imm : BitVec 12) :
    SameAnswer (loadWith k i rd rs1 imm s) (loadWith k i rd rs1 imm t) := by
  simp only [loadWith, h.x_eq, accessCheck_congr h.memWords, h.dmem]
  cases accessCheck s.cfg (effectiveAddress (s.x rs1) imm) k.width with
  | none => exact .next (h.writeReg rd _).advance
  | some f => exact raise_sameAnswer h f _ _

theorem storeWith_sameAnswer (k : MemKind) (i : Instr) (rs1 rs2 : Reg) (imm : BitVec 12) :
    SameAnswer (storeWith k i rs1 rs2 imm s) (storeWith k i rs1 rs2 imm t) := by
  simp only [storeWith, h.x_eq, accessCheck_congr h.memWords]
  cases accessCheck s.cfg (effectiveAddress (s.x rs1) imm) k.width with
  | none => exact .next (h.store _ _ _).advance
  | some f => exact raise_sameAnswer h f _ _

theorem branchWith_sameAnswer (op : AluOp) (flip : Bool) (i : Instr) (rs1 rs2 : Reg) (off : BitVec 13) :
    SameAnswer (branchWith op flip i rs1 rs2 off s) (branchWith op flip i rs1 rs2 off t) := by
  simp only [branchWith, h.x_eq, h.pc]
  generalize branchTaken (alu op (s.x rs1) (s.x rs2)) flip = taken
  cases hf : taken && targetMisaligned (branchTarget s.pc off) with
  | true => exact raise_sameAnswer h _ _ _
  | false => exact .next ((h.trainBranch taken).setPc _)

theorem jumpWith_sameAnswer (i : Instr) (rd : Reg) (res : Word) :
    SameAnswer (jumpWith i rd res s) (jumpWith i rd res t) := by
  simp only [jumpWith, h.pc]
  cases targetMisaligned (jumpTarget res) with
  | true => exact raise_sameAnswer h _ _ _
  | false => exact .next ((h.writeReg rd _).setPc _)

theorem exec_sameAnswer (i : Instr) : SameAnswer (exec i s) (exec i t) := by
  cases i with
  | add | sub | sll | slt | sltu | xor | srl | sra | or | and => exact aluReg_sameAnswer h _ _ _ _
  | addi | slti | sltiu | xori | ori | andi | slli | srli | srai => exact aluImm_sameAnswer h _ _ _ _
  | lui rd imm => exact retire_sameAnswer h rd _
  | auipc rd imm =>
    simp only [exec, execAuipc, h.pc]
    exact retire_sameAnswer h rd _
  | lb | lh | lw | lbu | lhu => exact loadWith_sameAnswer h _ _ _ _ _
  | sb | sh | sw => exact storeWith_sameAnswer h _ _ _ _ _
  | beq | bne | blt | bge | bltu | bgeu => exact branchWith_sameAnswer h _ _ _ _ _ _
  | jal rd off =>
    simp only [exec, execJal, h.pc]
    exact jumpWith_sameAnswer h _ rd _
  | jalr rd rs1 imm =>
    simp only [exec, execJalr, h.x_eq]
    exact jumpWith_sameAnswer h _ rd _
  | ecall | ebreak => exact .next h.haltStep

/-- Both fetch, decode and execute the same instruction. -/
theorem step_sameAnswer : SameAnswer (step s) (step t) := by
  simp only [step, State.fetchAndRun, h.status, h.selfModified_eq, h.fetchWord_eq, h.pc]
  split_ifs
  · exact .next h
  · exact .refused _
  · cases s.fetchWord with
    | none => exact raise_sameAnswer h _ _ _
    | some w =>
      dsimp only
      cases decode w with
      | error r => exact raise_sameAnswer h _ _ _
      | ok i => exact (exec_sameAnswer h i).mapNext_restart

end

/-- Settles O21: the changed state agrees with `s` on everything a step reads, so the two steps answer the same. -/
theorem resultsIgnorePredictorAndPipeline : Obligations.ResultsIgnorePredictorAndPipeline := by
  intro s p n tab f d e m w cnt b c s'
  have hsame : SameResults s s' := ⟨rfl, rfl, rfl, rfl, rfl, rfl, rfl⟩
  obtain ⟨hnext, hfault, hrefused⟩ := (step_sameAnswer hsame).answers
  refine ⟨fun t ht => ?_, hfault, hrefused⟩
  obtain ⟨t', ht', h⟩ := hnext t ht
  exact ⟨t', ht', h.regs, h.pc, h.dmem, h.status, h.stored⟩

end Sys2Proof.Machine
end

section
/-! The state after reset (10_state.md R47, R490, R491): it is the state booted with the standard parameters and no
image. -/

namespace Sys2Proof.Machine

theorem bootState_standard_nil : bootState Config.standard [] [] = State.reset := rfl

/-- Settles O18: what boot loads meets the invariant, with the empty image too. -/
theorem resetSatisfiesTheInvariant : Obligations.ResetSatisfiesTheInvariant := by
  have hcfg : Config.standard.wf = true := by decide
  have hinv := bootState_inv [] [] hcfg
  rwa [bootState_standard_nil] at hinv

/-- A register file that holds 0 everywhere reads 0 everywhere. -/
@[simp] theorem read_replicate_zero (r : Reg) : RegFile.read (Vector.replicate 32 0#32) r = 0#32 := by
  simp [RegFile.read]

/-- Settles O28: the register file and the counters hold 0 in each place, the predictor table lists no entry, and the
other fields are written out. -/
theorem resetLeavesTheSpecifiedValues : Obligations.ResetLeavesTheSpecifiedValues :=
  ⟨read_replicate_zero, rfl, rfl, rfl, rfl, rfl, rfl, rfl, rfl, rfl, count_replicate_zero, rfl, fun _ => rfl, rfl⟩

end Sys2Proof.Machine
end

section
/-! Where a sequential step stops before an instruction runs (60_exceptions.md R453, R454; 20_memory.md R103): the record
of stored words is looked at first, then the range of the pc, then the word. -/

namespace Sys2Proof.Machine

theorem selfModified_iff (s : State) : s.selfModified = true ↔ s.pc.toNat / 4 ∈ s.stored := by
  rw [State.selfModified, List.contains_iff_mem, wordIndex_eq]

theorem selfModified_eq_false {s : State} (h : s.pc.toNat / 4 ∉ s.stored) : s.selfModified = false :=
  Bool.eq_false_iff.2 (mt (selfModified_iff s).1 h)

theorem fetchWord_of_not_inRange {s : State} (h : 4 * s.cfg.memWords ≤ s.pc.toNat) : s.fetchWord = none :=
  if_neg (mt (inRange_iff s.cfg s.pc).1 (Nat.not_lt.2 h))

/-- A word that decodes to nothing has no row of the control table. -/
theorem decodeBundle_of_not_decode {w : Word} (h : ∀ i, decode w ≠ .ok i) : decodeBundle w = none := by
  cases hb : decodeBundle w with
  | none => rfl
  | some c =>
    obtain ⟨i, hi, -⟩ := decodeBundle_eq_some hb
    exact absurd hi (h i)

/-- Settles O17: the three stops in the order they are looked for. -/
theorem stepStopsWhereNothingDecodes : Obligations.StepStopsWhereNothingDecodes := by
  intro s hrun
  refine ⟨fun hmem => ?stored, fun hmem hout => ?fetch, fun hmem hin hnone => ?decode⟩
  case stored => exact step_of_selfModified hrun ((selfModified_iff s).2 hmem)
  case fetch => exact step_of_fetchWord_none hrun (selfModified_eq_false hmem) (fetchWord_of_not_inRange hout)
  case decode =>
    exact step_of_decodeBundle_none hrun (selfModified_eq_false hmem) (fetchWord_of_inRange hin)
      (decodeBundle_of_not_decode hnone)

end Sys2Proof.Machine
end

section
/-! The run interface (60_exceptions.md R451, R459, R472): the record of a commit, and runs under a budget. -/

namespace Sys2Proof.Machine

/-! ### The trace record (R472) -/

theorem dest_eq_some {c : Bundle} (hv : c.rdValid = true) (h0 : c.rd ≠ 0#5) : c.dest = some c.rd := by
  simp [Bundle.dest, hv, h0]

theorem dest_eq_none {c : Bundle} (h : c.rdValid = false ∨ c.rd = 0#5) : c.dest = none := by
  obtain h | h := h <;> simp [Bundle.dest, h]

theorem dst_of_live {n : Entry} (h : n.live = true) : n.dst = n.c.dest := if_pos h

/-- The record of the commit of the entry in W. -/
def State.commitRecord (s : State) : TraceRecord :=
  { cycle := s.cycle, pc := s.w.pc, word := s.w.word, rd := s.w.c.dest
    value := s.w.c.dest.map fun _ => wbValue s.w, regs := writeBackRegs s.regs s.w }

theorem traceRecord_of_not_live {s : State} (h : s.w.live = false) : s.traceRecord = none := by
  simp [State.traceRecord, h]

theorem traceRecord_of_live {s : State} (hrun : s.status = .running) (h : s.w.live = true) :
    s.traceRecord = some s.commitRecord := by
  simp [State.traceRecord, State.commitRecord, hrun, h]

/-- Settles O40: the record is the commit's, and a register the entry writes reads the committed value after the
tick. -/
theorem traceRecordsEachCommit : Obligations.TraceRecordsEachCommit := by
  intro s hrun
  refine ⟨traceRecord_of_not_live, fun hl => ?_⟩
  refine ⟨s.commitRecord, traceRecord_of_live hrun hl, rfl, rfl, rfl, (nextTick_regs hrun).symm, ?dest, ?none⟩
  case dest =>
    intro hv h0
    have hdest := dest_eq_some hv h0
    have hread : (writeBackRegs s.regs s.w).read s.w.c.rd = wbValue s.w :=
      read_writeBackRegs_of_dst ((dst_of_live hl).trans hdest)
    rw [← nextTick_regs hrun] at hread
    exact ⟨hdest, congrArg (Option.map fun _ => wbValue s.w) hdest, hread⟩
  case none =>
    intro h
    have hdest := dest_eq_none h
    exact ⟨hdest, congrArg (Option.map fun _ => wbValue s.w) hdest⟩

/-! ### Runs under a budget (R459) -/

section
variable {s : State} (hrun : s.status = .running)
include hrun

theorem run_zero_of_running : run 0 s = .ok (s, .cycleBudgetExceeded) := by
  simp only [run, hrun]

theorem run_succ_of_running (n : Nat) (hself : s.tickSelfModified = false) : run (n + 1) s = run n s.nextTick := by
  simp [run, hrun, hself]

end

/-- A run its budget stops had not ended when it began. -/
theorem running_of_run_budget {n : Nat} {s t : State} (h : run n s = .ok (t, .cycleBudgetExceeded)) :
    s.status = .running := by
  unfold run at h
  split at h
  · cases h
  · cases h
  · assumption

/-- Nor did a refusal stop its first tick, and the rest of the run its budget stopped too. -/
theorem run_succ_budget {n : Nat} {s t : State} (h : run (n + 1) s = .ok (t, .cycleBudgetExceeded)) :
    s.tickSelfModified = false ∧ run n s.nextTick = .ok (t, .cycleBudgetExceeded) := by
  cases hself : s.tickSelfModified with
  | true => simp [run, running_of_run_budget h, hself] at h
  | false => exact ⟨rfl, (run_succ_of_running (running_of_run_budget h) n hself).symm.trans h⟩

/-- Settles O53, by induction on the first budget: each tick it allowed is one the longer budget allows first. -/
theorem budgetedRunsResume : Obligations.BudgetedRunsResume := by
  intro n m s t h
  have hrun := running_of_run_budget h
  induction n generalizing s with
  | zero =>
    rw [run_zero_of_running hrun] at h
    cases h
    exact ⟨by rw [Nat.zero_add], rfl, hrun⟩
  | succ n ih =>
    obtain ⟨hself, hrest⟩ := run_succ_budget h
    obtain ⟨hruns, hcycle, hstatus⟩ := ih s.nextTick hrest (running_of_run_budget hrest)
    refine ⟨?_, ?_, hstatus⟩
    · rw [Nat.succ_add, run_succ_of_running hrun _ hself, hruns]
    · rw [hcycle, nextTick_cycle hrun]; omega

end Sys2Proof.Machine
end

section
/-! The first commit from an empty pipeline (47_pipeline.md R440, R492): while nothing is in W the sequential machine
stands still, and the first instruction moves on a stage in each of four ticks; the fifth commits it. -/

namespace Sys2Proof.Machine

open Sys2Proof.Spec

/-! ### Ticks that leave the sequential machine where it stands -/

/-- A tick behind `n` others. -/
theorem ticks_succ_eq_tick {s u : State} {n : Nat} (h : ticks n s = .next u) : ticks (n + 1) s = tick u := by
  induction n generalizing s with
  | zero =>
    cases h
    cases htick : tick u with
    | next t => exact ticks_succ_of_next 0 htick
    | fault r => exact ticks_succ_of_fault 0 htick
    | refused r => exact ticks_succ_of_refused 0 htick
  | succ n ih =>
    cases htick : tick s with
    | next t =>
      rw [ticks_succ_of_next n htick] at h
      rw [ticks_succ_of_next (n + 1) htick, ih h]
    | fault r => rw [ticks_succ_of_fault n htick] at h; cases h
    | refused r => rw [ticks_succ_of_refused n htick] at h; cases h

/-- `n` ticks lead from `s` to the coherent running state `u`, and nothing has been committed. -/
structure Fills (n : Nat) (s u : State) : Prop where
  ticks : ticks n s = .next u
  coherent : Coherent u
  running : u.status = .running
  behind : Behind s u
  cycle : u.cycle = s.cycle + n

theorem Fills.refl {s : State} (h : Coherent s) (hrun : s.status = .running) : Fills 0 s s :=
  ⟨rfl, h, hrun, h.behind_self, rfl⟩

/-- With W empty, a tick commits nothing. -/
theorem Fills.succ {n : Nat} {s u : State} (h : Fills n s u) (hw : u.w.valid = false) : Fills (n + 1) s u.nextTick := by
  have hgo := terminal_of_not_valid hw
  obtain ⟨htick, hbehind⟩ := h.behind.tick_of_empty h.coherent h.running hw
  exact
    { ticks := (ticks_succ_eq_tick h.ticks).trans htick
      coherent := h.coherent.nextTick h.running hgo
      running := (status_nextTick_iff (coherent_iff.2 h.coherent) h.running).2 hgo
      behind := hbehind
      cycle := by rw [nextTick_cycle h.running, h.cycle, Nat.add_assoc] }

/-! ### The first instruction, stage by stage -/

section
variable {u : State} (hrun : u.status = .running)
include hrun

theorem valid_w_nextTick : u.nextTick.w.valid = u.m.valid := by rw [nextTick_w hrun, valid_memoryStage]

theorem valid_m_nextTick : u.nextTick.m.valid = u.e.valid := by rw [nextTick_m hrun, valid_next]

/-- With D empty Fetch alone is at work: it brings D an entry, Decode issues nothing, and nothing halts Fetch (R392). -/
theorem Coherent.nextTick_of_empty_d (h : Coherent u) (he : u.e.valid = false) (hd : u.d.valid = false)
    (hf : u.f.halted = false) :
    u.nextTick.d.valid = true ∧ u.nextTick.e.valid = false ∧ u.nextTick.f.halted = false := by
  have hx : (executeStage u.cfg u.e).squash = false := by rw [executeStage_of_not_valid he]; rfl
  have ho : decodeStage u = .idle := by simp [decodeStage, hd]
  obtain ⟨hfetched, -⟩ := fetched_of_fetching (s := u) (by rw [h.fetchAddress_of_empty_d hf hd])
  rw [nextTick_d hrun, nextTick_e hrun, nextTick_f hrun, selection_of_idle hx ho]
  exact ⟨hfetched, rfl, hf⟩

end

/-- From an empty pipeline four ticks commit nothing and bring an entry to W. -/
theorem exists_fills_four {s : State} (hinv : s.inv = true) (hrun : s.status = .running) :
    ∃ v, Fills 4 s.restart v ∧ v.w.valid = true := by
  have h0 : Fills 0 s.restart s.restart := .refl (coherent_restart hinv hrun) hrun
  have hf0 : s.restart.f.halted = false := show (!decide (s.status = .running)) = false by simp [hrun]
  have h1 := h0.succ rfl
  obtain ⟨hd1, he1, hf1⟩ := h0.coherent.nextTick_of_empty_d h0.running rfl rfl hf0
  have hm1 := valid_m_nextTick h0.running
  have hw1 := valid_w_nextTick h0.running
  have h2 := h1.succ hw1
  have he2 : s.restart.nextTick.nextTick.e.valid = true := by
    rw [nextTick_e h1.running]
    exact h1.coherent.valid_selection_of_d he1 hm1 hf1 hd1
  have hm2 := (valid_m_nextTick h1.running).trans he1
  have hw2 := (valid_w_nextTick h1.running).trans hm1
  have h3 := h2.succ hw2
  have hm3 := (valid_m_nextTick h2.running).trans he2
  have hw3 := (valid_w_nextTick h2.running).trans hm2
  exact ⟨_, h3.succ hw3, (valid_w_nextTick h3.running).trans hm3⟩

/-- Settles O48: the sequential machine still stands at `s` when the first entry is in W, so the fifth tick commits
what its step executes. -/
theorem firstCommitIsInTheFifthTick : Obligations.FirstCommitIsInTheFifthTick := by
  intro s hinv hdrained hrun
  obtain ⟨v, hfills, hv⟩ := exists_fills_four hinv hrun
  rw [← of_decide_eq_true hdrained] at hfills
  obtain ⟨hregs, hpcs, -⟩ := hfills.behind.arch
  obtain ⟨hpc, -⟩ := wOnPath_iff.1 hfills.coherent.pathW hv
  have hfifth := ticks_succ_eq_tick hfills.ticks
  cases hfills.behind.commitsAlike hfills.coherent hfills.running hv with
  | next t hstep htick hdmem hbehind =>
    rw [hstep, hfifth, htick]
    refine ⟨fun t' ht' => ?_, nofun, nofun⟩
    obtain rfl : t = t' := by injection ht'
    refine ⟨⟨v, hfills.ticks, hdmem.symm, hregs, hv, hpc.trans hpcs⟩, v.nextTick, rfl, hbehind.arch, hbehind.dmem, ?_⟩
    rw [nextTick_cycle hfills.running, hfills.cycle]
  | fault r hstep htick _ _ =>
    rw [hstep, hfifth, htick]
    exact ⟨fun _ ht => (nomatch ht), fun _ hr => hr, nofun⟩
  | refused r hstep htick =>
    rw [hstep, hfifth, htick]
    exact ⟨fun _ ht => (nomatch ht), nofun, fun _ hr => hr⟩

end Sys2Proof.Machine
end
